-- ==== Sys2Proof/Word.lean ====
section
/-! DEFINITION. The widths of the NFUID codec block (00_scope.md R5, R7, R8; 10_state.md R20): every value is an
unsigned bit vector of a stated width. -/

namespace Sys2Proof

/-- One character code, 8 bits (30_encoding.md R78). -/
abbrev Byte := BitVec 8

/-- One 32-bit word of the register window, and a command word (20_memory.md R50, 30_encoding.md R70). -/
abbrev Word := BitVec 32

/-- The value register's width, `ID_BITS` = 66 (00_scope.md R5). -/
abbrev Value := BitVec 66

/-- The timestamp's and the mask's width, `TS_BITS` = `MASK_BITS` = 42 (00_scope.md R5). -/
abbrev Stamp := BitVec 42

/-- The random field's width, `RND_BITS` = 23 (00_scope.md R5). -/
abbrev Rnd := BitVec 23

/-- An index 0..63 into the alphabet, `CHAR_BITS` = 6 (00_scope.md R5). -/
abbrev Index := BitVec 6

/-- The field N of a command word, 7 bits (30_encoding.md R70, R71). -/
abbrev BitCount := BitVec 7

end Sys2Proof
end

