-- ==== Sys2Proof/Config.lean ====
section
/-! DEFINITION. What an implementation fixes (00_scope.md R5, R6). `BASE`, the one OPEN parameter (92_eei_decisions.md
D4), is a field of `State`, so that every statement holds for every base. The block's mixer parameters are
`Machine.blockMixer`, of the type given here. -/

namespace Sys2Proof

/-- `N_MAX`: the largest bit count ENC and DEC accept (00_scope.md R6, 30_encoding.md R74). -/
def Config.nMax : Nat := 66

/-- `ID_CHARS`: the characters of a full identifier (00_scope.md R5). -/
def Config.idChars : Nat := 11

/-- The size of the register window in bytes (20_memory.md R50). -/
def Config.windowBytes : Nat := 256

/-- The parameters of a mixer of the shape of 41_mixer.md R130: a working width, three shifts, the constants of rounds
1 and 2, and the constant of round 3 if that round multiplies. 93_implementation_defined.md I1 and I2 call the width and
the third round parameters; R130 fixes the block's values. -/
structure MixParams where
  width : Nat
  shift1 : Nat
  shift2 : Nat
  shift3 : Nat
  mul1 : Nat
  mul2 : Nat
  mul3 : Option Nat
  deriving DecidableEq, Repr

end Sys2Proof
end

