-- ==== Sys2Proof/Syntax.lean ====
section
/-! DEFINITION. The commands of the block: one constructor per row of spec/opcode_table.json (30_encoding.md R72). -/

namespace Sys2Proof

/-- The eight commands (30_encoding.md R72). `n` is the field N of the command word, the bit count of ENC and DEC
(R71); no other command has an operand in its word. -/
inductive Instr where
  /-- NOP (60_exceptions.md R200). -/
  | nop
  /-- ENC n (40_codec.md R110). -/
  | enc (n : BitCount)
  /-- DEC n (40_codec.md R111). -/
  | dec (n : BitCount)
  /-- STRETCH (41_mixer.md R131). -/
  | stretch
  /-- PACK (42_generator.md R151). -/
  | pack
  /-- UNPACK (43_parser.md R171). -/
  | unpack
  /-- GEN (42_generator.md R152). -/
  | gen
  /-- PARSE (43_parser.md R172). -/
  | parse
  deriving DecidableEq, Repr

end Sys2Proof
end

