-- ==== Sys2Proof/WellFormed.lean ====
section
/-! DEFINITION. Which commands a legal command word can stand for (30_encoding.md R73, R74). -/

namespace Sys2Proof

/-- A bit count that ENC and DEC accept: 1 to 66 (30_encoding.md R73 item 3). -/
abbrev BitCountOk (n : BitCount) : Prop := 1 ≤ n.toNat ∧ n.toNat ≤ Config.nMax

/-- The check of a command: its bit count, if it has one, is 1 to 66 (30_encoding.md R73). -/
def wellFormed : Instr → Bool
  | .nop => true
  | .enc n => decide (BitCountOk n)
  | .dec n => decide (BitCountOk n)
  | .stretch => true
  | .pack => true
  | .unpack => true
  | .gen => true
  | .parse => true

/-- A well-formed command: one that a legal command word stands for. -/
abbrev WellFormed (i : Instr) : Prop := wellFormed i = true

end Sys2Proof
end

