-- ==== Sys2Proof/Decode.lean ====
section
/-! DEFINITION. The command word's decoder, total on all 32-bit words and rejecting by name, and its encoder
(30_encoding.md R70 to R77). -/

namespace Sys2Proof

/-- OP, bits 3:0 of a command word (30_encoding.md R70). -/
def opField (w : Word) : BitVec 4 := w.extractLsb' 0 4

/-- N, bits 10:4 of a command word (30_encoding.md R70, R71). -/
def nField (w : Word) : BitCount := w.extractLsb' 4 7

/-- RSV, bits 31:11 of a command word (30_encoding.md R70). -/
def rsvField (w : Word) : BitVec 21 := w.extractLsb' 11 21

/-- Why a command word is illegal: the four items of 30_encoding.md R73. Each one makes the block raise
ILLEGAL_COMMAND, with the same effect (60_exceptions.md R192). -/
inductive DecodeReject where
  /-- Item 1: OP is 0x8 to 0xF. -/
  | reservedOpcode
  /-- Item 2: RSV is not 0. -/
  | reservedBits
  /-- Item 3: ENC or DEC with N = 0 or N > 66. -/
  | bitCountOutOfRange
  /-- Item 4: a command without an operand, with N not 0. -/
  | bitCountNotZero
  deriving DecidableEq, Repr

/-- A command without an operand: legal only with N = 0 (30_encoding.md R73 item 4). -/
def decodePlain (n : BitCount) (i : Instr) : Except DecodeReject Instr :=
  if n = 0#7 then .ok i else .error .bitCountNotZero

/-- A command with a bit count: legal only with N in 1..66 (30_encoding.md R73 item 3). -/
def decodeCounted (n : BitCount) (i : Instr) : Except DecodeReject Instr :=
  if BitCountOk n then .ok i else .error .bitCountOutOfRange

/-- The opcode map (30_encoding.md R72), for a word whose RSV is 0. -/
def decodeOp (op : BitVec 4) (n : BitCount) : Except DecodeReject Instr :=
  match op.toNat with
  | 0x0 => decodePlain n .nop
  | 0x1 => decodeCounted n (.enc n)
  | 0x2 => decodeCounted n (.dec n)
  | 0x3 => decodePlain n .stretch
  | 0x4 => decodePlain n .pack
  | 0x5 => decodePlain n .unpack
  | 0x6 => decodePlain n .gen
  | 0x7 => decodePlain n .parse
  | _ => .error .reservedOpcode

/-- The legality check and the opcode map (30_encoding.md R72, R73). -/
def decode (w : Word) : Except DecodeReject Instr :=
  if rsvField w = 0#21 then decodeOp (opField w) (nField w) else .error .reservedBits

/-- The OP value of each command (30_encoding.md R72). -/
def opcodeOf : Instr → BitVec 4
  | .nop => 0x0
  | .enc _ => 0x1
  | .dec _ => 0x2
  | .stretch => 0x3
  | .pack => 0x4
  | .unpack => 0x5
  | .gen => 0x6
  | .parse => 0x7

/-- The N field of each command's word: the bit count, and 0 for a command without an operand (30_encoding.md R75). -/
def bitCountOf : Instr → BitCount
  | .nop => 0
  | .enc n => n
  | .dec n => n
  | .stretch => 0
  | .pack => 0
  | .unpack => 0
  | .gen => 0
  | .parse => 0

/-- The command word `RSV = 0, N, OP`, that is `(n << 4) | OP` (30_encoding.md R70, R75). -/
def encode (i : Instr) : Word := 0#21 ++ bitCountOf i ++ opcodeOf i

/-- The command the decoder reads from the table's bits `w` of an instruction of `nbits` bits. A command is one 32-bit
word, given to the block as one 32-bit access, so it has no byte order of its own (30_encoding.md R70); bits above `nbits`
are 0, and no command has bits above 31. -/
def decodeTableWord (nbits w : Nat) : Option Instr :=
  if w % 2 ^ nbits < 2 ^ 32 then
    match decode (BitVec.ofNat 32 (w % 2 ^ nbits)) with
    | .ok i => some i
    | .error _ => none
  else none

end Sys2Proof
end

