-- ==== Sys2Proof/Machine/Alphabet.lean ====
section
/-! DEFINITION. The alphabet ROM and its reverse lookup (10_state.md R33, R34). -/

namespace Sys2Proof.Machine

/-- `ALPHA[i]`: `A`-`Z`, `a`-`z`, `0`-`9`, `-`, `_`, as ASCII codes (10_state.md R33). A constant: nothing writes it
(R33, 70_reset_and_hazards.md R221). -/
def alpha (i : Index) : Byte :=
  let n := i.toNat
  if n < 26 then BitVec.ofNat 8 (0x41 + n)
  else if n < 52 then BitVec.ofNat 8 (0x61 + (n - 26))
  else if n < 62 then BitVec.ofNat 8 (0x30 + (n - 52))
  else if n = 62 then 0x2D#8
  else 0x5F#8

/-- `lookup(b)`: the index of `b` in the alphabet, or none (10_state.md R34). -/
def lookup (b : Byte) : Option Index :=
  let c := b.toNat
  if 0x41 ≤ c ∧ c ≤ 0x5A then some (BitVec.ofNat 6 (c - 0x41))
  else if 0x61 ≤ c ∧ c ≤ 0x7A then some (BitVec.ofNat 6 (c - 0x61 + 26))
  else if 0x30 ≤ c ∧ c ≤ 0x39 then some (BitVec.ofNat 6 (c - 0x30 + 52))
  else if c = 0x2D then some 62#6
  else if c = 0x5F then some 63#6
  else none

end Sys2Proof.Machine
end

