-- ==== Sys2Proof/Machine/State.lean ====
section
/-! DEFINITION. The state of the block: the registers of 10_state.md R20, the platform's `BASE`, and the host port's two
queues. The alphabet ROM is a constant (10_state.md R33): `Machine.alpha`. -/

namespace Sys2Proof.Machine

/-- Whether a host access reads or writes. -/
inductive AccessKind where
  | read
  | write
  deriving DecidableEq, Repr

/-- The access widths that 20_memory.md R56 names and puts outside the contract. -/
inductive OtherWidth where
  | bits8
  | bits16
  | bits64
  deriving DecidableEq, Repr

/-- What reaches the block from outside, one at a time and in order (20_memory.md R50, R61): the host's accesses, and the
platform's reset input (70_reset_and_hazards.md R222). Addresses are natural numbers, since the spec gives no address
width. -/
inductive HostEvent where
  /-- `MemRead(addr, 4)` (20_memory.md R50). -/
  | read (addr : Nat)
  /-- `MemWrite(addr, 4, w)` (20_memory.md R50). -/
  | write (addr : Nat) (w : Word)
  /-- An access of another width; whatever it would write is not recorded, since it has no meaning (20_memory.md R56). -/
  | otherWidth (kind : AccessKind) (width : OtherWidth) (addr : Nat)
  /-- The platform's reset input (70_reset_and_hazards.md R222). -/
  | reset
  deriving DecidableEq, Repr

/-- The machine. The first ten fields are the block's registers (10_state.md R20), the others are the platform's parameter
and the host port. -/
structure State where
  /-- CMD: the word of the command being run, 0 whenever no command runs; a read returns 0 (R20, R220; log 3). -/
  cmd : Word
  /-- STATUS: ERR in 1:0, ERRIDX in 7:4, bits 3:2 reserved (R31). -/
  status : BitVec 8
  /-- V, the value register (R23). -/
  v : Value
  /-- T, the timestamp register (R24). -/
  t : Stamp
  /-- R, the random register (R25). -/
  r : Rnd
  /-- H, the hidden flag (R26). -/
  h : BitVec 1
  /-- M, the mask register (R27). -/
  m : Stamp
  /-- SLEN, the string length register (R28). -/
  slen : BitVec 8
  /-- STR[0..15], the character buffer (R29). -/
  str : Vector Byte 16
  /-- FRAG[0..3], the random-fragment buffer (R30). -/
  frag : Vector Byte 4
  /-- BASE, the platform's address of the window (20_memory.md R50, R59; log 1). -/
  base : Nat
  /-- The host port: events issued and not yet performed, oldest first (20_memory.md R61; log 2). -/
  pending : List HostEvent
  /-- The host port: the words the reads performed so far returned, oldest first (20_memory.md R50; log 2). -/
  replies : List Word
  deriving DecidableEq, Repr

/-- Why the machine stops with a fault. No command faults: a command's error is a value of STATUS and the block goes on
(60_exceptions.md R190, R199). -/
inductive Fault where
  /-- Raised by the host port for an access whose address is not in the 256 bytes from BASE: no such address exists in the
  block's one address space (20_memory.md R50; log 5). Safe: the model stops. -/
  | outsideWindow
  deriving DecidableEq, Repr

/-- Why the machine gives an event no meaning. -/
inductive Refusal where
  /-- Raised by no arm: every command has its meaning. Safe. -/
  | notModelled (mnemonic : String)
  /-- Raised by the host port for an access of 8, 16 or 64 bits (20_memory.md R56: "A model gives such an access no meaning
  (refuse)"; log 4). Safe. -/
  | unsupportedWidth
  /-- Raised by the host port for an access at an offset that is no multiple of 4 (20_memory.md R56; log 4). Safe. -/
  | misalignedAccess
  deriving DecidableEq, Repr

/-- The machine right after reset: every register 0 (70_reset_and_hazards.md R220). BASE 0 and the empty queues are the
model's (logs 1 and 2). -/
def State.reset : State where
  cmd := 0#32
  status := 0#8
  v := 0#66
  t := 0#42
  r := 0#23
  h := 0#1
  m := 0#42
  slen := 0#8
  str := Vector.replicate 16 0#8
  frag := Vector.replicate 4 0#8
  base := 0
  pending := []
  replies := []

end Sys2Proof.Machine
end

