-- ==== Sys2Proof/Machine/Flags.lean ====
section
/-! DEFINITION. The STATUS register's fields and the value every command ends by writing (10_state.md R31;
60_exceptions.md R190, R191, R192). H, the block's only flag, is a register of its own (10_state.md R26). -/

namespace Sys2Proof.Machine

/-- The errors a command can raise (60_exceptions.md R191, R192). -/
inductive CommandError where
  /-- ERR 1: SLEN is not the expected character count. -/
  | invalidLength
  /-- ERR 2: `STR[j]` is the first character not in the alphabet. -/
  | invalidCharacter (j : Nat)
  /-- ERR 3: the command word fails the legality check. -/
  | illegalCommand
  deriving DecidableEq, Repr

/-- STATUS as `{ERRIDX, reserved 0, ERR}` (10_state.md R31). -/
def statusBits (errIdx : BitVec 4) (err : BitVec 2) : BitVec 8 := errIdx ++ 0#2 ++ err

/-- STATUS after a command that succeeds (60_exceptions.md R190). -/
def statusOk : BitVec 8 := statusBits 0#4 0#2

/-- STATUS after a command that raises an error; ERRIDX is 0 but for INVALID_CHARACTER (10_state.md R31,
60_exceptions.md R191, R192). -/
def statusOfError : CommandError → BitVec 8
  | .invalidLength => statusBits 0#4 1#2
  | .invalidCharacter j => statusBits (BitVec.ofNat 4 j) 2#2
  | .illegalCommand => statusBits 0#4 3#2

/-- STATUS.ERR, bits 1:0 (10_state.md R31). -/
def State.err (s : State) : BitVec 2 := s.status.extractLsb' 0 2

/-- STATUS.ERRIDX, bits 7:4 (10_state.md R31). -/
def State.errIdx (s : State) : BitVec 4 := s.status.extractLsb' 4 4

end Sys2Proof.Machine
end

