-- ==== Sys2Proof/Machine/Ops.lean ====
section
/-! DEFINITION. The named operations over the registers and the host port: one update per field, the two ways a command
ends, and reset. -/

namespace Sys2Proof.Machine

/-- CMD holds `w`. -/
def State.setCmd (s : State) (w : Word) : State := { s with cmd := w }
/-- STATUS holds `x`. -/
def State.setStatus (s : State) (x : BitVec 8) : State := { s with status := x }
/-- V holds `x`. -/
def State.setV (s : State) (x : Value) : State := { s with v := x }
/-- T holds `x`. -/
def State.setT (s : State) (x : Stamp) : State := { s with t := x }
/-- R holds `x`. -/
def State.setR (s : State) (x : Rnd) : State := { s with r := x }
/-- H holds `x`. -/
def State.setH (s : State) (x : BitVec 1) : State := { s with h := x }
/-- M holds `x`. -/
def State.setM (s : State) (x : Stamp) : State := { s with m := x }
/-- SLEN holds `x`. -/
def State.setSlen (s : State) (x : BitVec 8) : State := { s with slen := x }
/-- STR holds `x`. -/
def State.setStr (s : State) (x : Vector Byte 16) : State := { s with str := x }
/-- FRAG holds `x`. -/
def State.setFrag (s : State) (x : Vector Byte 4) : State := { s with frag := x }
/-- The events still to perform are `es`. -/
def State.setPending (s : State) (es : List HostEvent) : State := { s with pending := es }
/-- A read returns `w` to the host. -/
def State.reply (s : State) (w : Word) : State := { s with replies := s.replies ++ [w] }

/-- A command ends in success: `STATUS <- {ERRIDX = 0, ERR = 0}` (60_exceptions.md R190). -/
def succeed (s : State) : State := s.setStatus statusOk

/-- A command raises an error: it writes STATUS and nothing else (00_scope.md R9; 60_exceptions.md R190, R193). This is
all there is to an error on this block: it saves no state, changes no mode and transfers control nowhere, and there is
nothing to return from (60_exceptions.md R199). -/
def raise (e : CommandError) (s : State) : State := s.setStatus (statusOfError e)

/-- How a command that may fail ends: with its result's state and success, or with its error and nothing else written
(60_exceptions.md R190, R193). -/
def finish {α : Type} (x : Except CommandError α) (s : State) (onOk : α → State) : State :=
  match x with
  | .ok a => succeed (onOk a)
  | .error e => raise e s

/-- The reset input: every register holds its reset value (70_reset_and_hazards.md R220, R222); what is outside the block,
`BASE` and the host port, stays. -/
def platformReset (s : State) : State :=
  { State.reset with base := s.base, pending := s.pending, replies := s.replies }

end Sys2Proof.Machine
end

