-- ==== Sys2Proof/Machine/Operands.lean ====
section
/-! DEFINITION. The operand forms of the commands: the bit count and its groups (30_encoding.md R71, 40_codec.md R100), the
string in STR (10_state.md R28, R29), and the three fields of a RawID (10_state.md R32). -/

namespace Sys2Proof.Machine

/-- `k = ceil(N/6)`, the characters of a value of `n` bits (40_codec.md R100). -/
def charCount (n : Nat) : Nat := (n + 5) / 6

/-- The width of the group that starts with `rem` bits still to process: `min(6, rem)` (40_codec.md R100). -/
def groupWidth (rem : Nat) : Nat := min 6 rem

/-- The string operand of DEC and PARSE: the bytes of STR in reading order, `STR[0]` first (10_state.md R29,
20_memory.md R55). -/
def State.chars (s : State) : List Byte := s.str.toList

/-- A string as the character buffer holds it: `STR[i]` is character `i`, and 0x00 past its end (40_codec.md R110,
42_generator.md R152). -/
def strBuffer (out : List Byte) : Vector Byte 16 :=
  let c (i : Nat) : Byte := out.getD i 0x00#8
  #v[c 0, c 1, c 2, c 3, c 4, c 5, c 6, c 7, c 8, c 9, c 10, c 11, c 12, c 13, c 14, c 15]

/-- A 4-character fragment as FRAG holds it (43_parser.md R172, R176). -/
def fragBuffer (out : List Byte) : Vector Byte 4 :=
  let c (i : Nat) : Byte := out.getD i 0x00#8
  #v[c 0, c 1, c 2, c 3]

/-- The string result of ENC and GEN: STR and SLEN (40_codec.md R110, 42_generator.md R152). -/
def State.putString (s : State) (out : List Byte) (k : Nat) : State :=
  (s.setStr (strBuffer out)).setSlen (BitVec.ofNat 8 k)

/-- The three fields of an identifier (10_state.md R32; 42_generator.md R150, 43_parser.md R170). -/
structure IdFields where
  t : Stamp
  h : BitVec 1
  r : Rnd
  deriving DecidableEq, Repr

/-- The operands of PACK and GEN (42_generator.md R151, R152). -/
def State.fields (s : State) : IdFields := ⟨s.t, s.h, s.r⟩

/-- The field results of UNPACK and PARSE (43_parser.md R171, R172). -/
def State.putFields (s : State) (f : IdFields) : State := ((s.setT f.t).setH f.h).setR f.r

end Sys2Proof.Machine
end

