-- ==== Sys2Proof/Machine/Codec.lean ====
section
/-! DEFINITION. The codec functions and the commands ENC and DEC (40_codec.md). -/

namespace Sys2Proof.Machine

/-- The alphabet index of the group that starts with `rem` bits still to process: the group's bits of `v`, moved to the
high end of the 6-bit slot when the group is narrower than 6 (40_codec.md R100, R101). -/
def encodeGroup (v : Value) (rem : Nat) : Index :=
  let w := groupWidth rem
  let low := rem - w
  let g := ((v >>> low) &&& BitVec.ofNat 66 (2 ^ w - 1)).setWidth 6
  if w < 6 then g <<< (6 - w) else g

/-- The loop of `encodeBits` (40_codec.md R101): `k` groups still to write, `rem` bits still to process, the most
significant group first. -/
def encodeGroups (v : Value) : Nat → Nat → List Byte
  | 0, _ => []
  | k + 1, rem => alpha (encodeGroup v rem) :: encodeGroups v k (rem - groupWidth rem)

/-- `encodeBits(v, N)` (40_codec.md R101). -/
def encodeBits (v : Value) (n : Nat) : List Byte := encodeGroups v (charCount n) n

/-- The value bits of one looked-up index: the padding bits of a group narrower than 6 are discarded (40_codec.md R102). -/
def decodeGroup (idx : Index) (rem : Nat) : Index :=
  let w := groupWidth rem
  if w < 6 then idx >>> (6 - w) else idx

/-- The loop of `decodeBits` (40_codec.md R102) over the characters still to read, the first of which is character `j`,
with `rem` bits still to process. -/
def decodeGroups : List Byte → Nat → Nat → Value → Except CommandError Value
  | [], _, _, acc => .ok acc
  | c :: cs, j, rem, acc =>
    match lookup c with
    | none => .error (.invalidCharacter j)
    | some idx =>
      decodeGroups cs (j + 1) (rem - groupWidth rem)
        ((acc <<< groupWidth rem) ||| (decodeGroup idx rem).setWidth 66)

/-- `decodeBits(s, len, N)` (40_codec.md R102): the length is checked first (90_conflicts.md C1, C3), then the characters
in order; only the first `ceil(N/6)` bytes of `cs` are read. -/
def decodeBits (cs : List Byte) (len n : Nat) : Except CommandError Value :=
  if len = charCount n then decodeGroups (cs.take (charCount n)) 0 n 0#66 else .error .invalidLength

/-- ENC n: STR and SLEN become the `ceil(n/6)` characters of V (40_codec.md R110). A bit count outside 1..66 is an illegal
command (30_encoding.md R73); the decoder admits none. -/
def execEnc (n : BitCount) (s : State) : Host.Outcome State Fault Refusal :=
  if BitCountOk n then .next (succeed (s.putString (encodeBits s.v n.toNat) (charCount n.toNat)))
  else .next (raise .illegalCommand s)

/-- DEC n: V becomes the value of the string in STR, or the command raises INVALID_LENGTH or INVALID_CHARACTER
(40_codec.md R111). A bit count outside 1..66 is an illegal command (30_encoding.md R73); the decoder admits none. -/
def execDec (n : BitCount) (s : State) : Host.Outcome State Fault Refusal :=
  if BitCountOk n then .next (finish (decodeBits s.chars s.slen.toNat n.toNat) s fun x => s.setV x)
  else .next (raise .illegalCommand s)

end Sys2Proof.Machine
end

