-- ==== Sys2Proof/Machine/Mixer.lean ====
section
/-! DEFINITION. The mixer and the command STRETCH (41_mixer.md). -/

namespace Sys2Proof.Machine

/-- `x XOR (x >> k)`, a logical shift (41_mixer.md R130). -/
def xorShift {w : Nat} (k : Nat) (x : BitVec w) : BitVec w := x ^^^ (x >>> k)

/-- One round: xorshift, then a multiplication mod 2^w if the round has a constant (41_mixer.md R130;
93_implementation_defined.md I1). -/
def mixRound {w : Nat} (k : Nat) (c : Option Nat) (x : BitVec w) : BitVec w :=
  match c with
  | none => xorShift k x
  | some c => xorShift k x * BitVec.ofNat w c

/-- The three rounds and the final mask to 42 bits, for any parameters (41_mixer.md R130). -/
def stretchWith (p : MixParams) (r : Rnd) : Stamp :=
  (mixRound p.shift3 p.mul3
    (mixRound p.shift2 (some p.mul2)
      (mixRound p.shift1 (some p.mul1) (r.setWidth p.width)))).setWidth 42

/-- The block's mixer: 64 bits, shifts 13, 12, 15, constants C1 and C2, no multiplication in round 3 (00_scope.md R5, R6;
41_mixer.md R130; log 6). -/
def blockMixer : MixParams where
  width := 64
  shift1 := 13
  shift2 := 12
  shift3 := 15
  mul1 := 0x9e3779b97f4a7c15
  mul2 := 0xbf58476d1ce4e5b9
  mul3 := none

/-- `stretch(r)` (41_mixer.md R130). -/
def stretch (r : Rnd) : Stamp := stretchWith blockMixer r

/-- STRETCH: `M <- stretch(R)` (41_mixer.md R131). -/
def execStretch (s : State) : Host.Outcome State Fault Refusal := .next (succeed (s.setM (stretch s.r)))

end Sys2Proof.Machine
end

