-- ==== Sys2Proof/Machine/Generator.lean ====
section
/-! DEFINITION. The pack function and the commands PACK and GEN (42_generator.md). -/

namespace Sys2Proof.Machine

/-- The timestamp field masked when the flag is 1 (generate step 4, parse step 3: 42_generator.md R150,
43_parser.md R170). The `mod 2^42` of those steps changes nothing (41_mixer.md R136). -/
def obfuscate (h : BitVec 1) (r : Rnd) (t : Stamp) : Stamp := if h = 1#1 then t ^^^ stretch r else t

/-- `pack(t, h, r)`: `{ft, flag, r}` with ft at 65:24, flag at 23, r at 22:0 (42_generator.md R150, 10_state.md R32). -/
def pack (f : IdFields) : Value := obfuscate f.h f.r f.t ++ f.h ++ f.r

/-- PACK: `V <- pack(T, H, R)` (42_generator.md R151). -/
def execPack (s : State) : Host.Outcome State Fault Refusal := .next (succeed (s.setV (pack s.fields)))

/-- GEN: V becomes `pack(T, H, R)`, STR and SLEN its 11 characters (42_generator.md R152). -/
def execGen (s : State) : Host.Outcome State Fault Refusal :=
  .next (succeed ((s.setV (pack s.fields)).putString (encodeBits (pack s.fields) 66) Config.idChars))

end Sys2Proof.Machine
end

