-- ==== Sys2Proof/Machine/Parser.lean ====
section
/-! DEFINITION. The unpack function and the commands UNPACK and PARSE (43_parser.md). -/

namespace Sys2Proof.Machine

/-- `unpack(v)` (43_parser.md R170): the random field `v[22:0]`, the flag `v[23]`, the timestamp field `v[65:24]`
de-obfuscated when the flag is 1. -/
def unpack (v : Value) : IdFields :=
  let r : Rnd := v.extractLsb' 0 23
  let h : BitVec 1 := v.extractLsb' 23 1
  ⟨obfuscate h r (v.extractLsb' 24 42), h, r⟩

/-- The 4-character fragment of a random field, `encodeBits(zext_66(r), 23)` (43_parser.md R172, R176). -/
def fragmentOf (r : Rnd) : Vector Byte 4 := fragBuffer (encodeBits (r.setWidth 66) 23)

/-- UNPACK: T, H and R become the fields of V (43_parser.md R171). -/
def execUnpack (s : State) : Host.Outcome State Fault Refusal := .next (succeed (s.putFields (unpack s.v)))

/-- PARSE: the 11 characters in STR become V, its fields T, H and R, and the fragment of the random field FRAG; or the
command raises INVALID_LENGTH or INVALID_CHARACTER (43_parser.md R172). -/
def execParse (s : State) : Host.Outcome State Fault Refusal :=
  .next (finish (decodeBits s.chars s.slen.toNat 66) s fun x =>
    ((s.setV x).putFields (unpack x)).setFrag (fragmentOf (unpack x).r))

end Sys2Proof.Machine
end

