-- ==== Sys2Proof/Machine/System.lean ====
section
/-! DEFINITION. The command NOP (60_exceptions.md R200). -/

namespace Sys2Proof.Machine

/-- NOP: reports success and writes no other register (60_exceptions.md R200). -/
def execNop (s : State) : Host.Outcome State Fault Refusal := .next (succeed s)

end Sys2Proof.Machine
end

