-- ==== Sys2Proof/Machine/Dispatch.lean ====
section
/-! DEFINITION. The opcode map's meanings: one arm per command (30_encoding.md R72). -/

namespace Sys2Proof.Machine

/-- What each command does. -/
def exec (i : Instr) (s : State) : Host.Outcome State Fault Refusal :=
  match i with
  | .nop => Sys2Proof.Machine.execNop s
  | .enc n => Sys2Proof.Machine.execEnc n s
  | .dec n => Sys2Proof.Machine.execDec n s
  | .stretch => Sys2Proof.Machine.execStretch s
  | .pack => Sys2Proof.Machine.execPack s
  | .unpack => Sys2Proof.Machine.execUnpack s
  | .gen => Sys2Proof.Machine.execGen s
  | .parse => Sys2Proof.Machine.execParse s

end Sys2Proof.Machine
end

