-- ==== Sys2Proof/Machine/Window.lean ====
section
/-! DEFINITION. The register window: its map, its reads and its writes (20_memory.md R50 to R56). -/

namespace Sys2Proof.Machine

/-- The words of the window (20_memory.md R52). -/
inductive WindowReg where
  | cmd
  | status
  | vLo
  | vMid
  | vHi
  | tLo
  | tHi
  | rnd
  | hid
  | mLo
  | mHi
  | slenR
  | str0
  | str1
  | str2
  | str3
  | fragR
  /-- ALPHAj, at 0x80 + 4j. -/
  | alpha (j : Fin 16)
  /-- A reserved offset: reads 0, writes ignored. -/
  | reserved
  deriving DecidableEq, Repr

/-- The word at each offset that is a multiple of 4 (20_memory.md R52). -/
def windowReg (off : Nat) : WindowReg :=
  match off with
  | 0x00 => .cmd
  | 0x04 => .status
  | 0x08 => .vLo
  | 0x0C => .vMid
  | 0x10 => .vHi
  | 0x14 => .tLo
  | 0x18 => .tHi
  | 0x1C => .rnd
  | 0x20 => .hid
  | 0x24 => .mLo
  | 0x28 => .mHi
  | 0x2C => .slenR
  | 0x30 => .str0
  | 0x34 => .str1
  | 0x38 => .str2
  | 0x3C => .str3
  | 0x40 => .fragR
  | n => if 0x80 ≤ n ∧ n ≤ 0xBC then .alpha (Fin.ofNat 16 ((n - 0x80) / 4)) else .reserved

/-- Four bytes as a word, the byte with the lowest index in the lowest bits (20_memory.md R52, R54). -/
def wordOfBytes (b0 b1 b2 b3 : Byte) : Word := b3 ++ b2 ++ b1 ++ b0

/-- Byte `i` of a word, byte 0 the lowest bits (20_memory.md R54). -/
def byteOfWord (w : Word) (i : Nat) : Byte := w.extractLsb' (8 * i) 8

/-- STR[j], STR[j+1], STR[j+2], STR[j+3] as a word (20_memory.md R52). -/
def State.strWord (s : State) (j : Nat) (hj : j + 3 < 16) : Word :=
  wordOfBytes s.str[j] s.str[j + 1] s.str[j + 2] s.str[j + 3]

/-- A host read of a word (20_memory.md R52, R53): the named fields at their bits, 0 in every other bit. It changes
nothing (R58). -/
def readReg (s : State) : WindowReg → Word
  | .cmd => 0#32
  | .status => s.errIdx.setWidth 32 <<< 4 ||| s.err.setWidth 32
  | .vLo => s.v.extractLsb' 0 32
  | .vMid => s.v.extractLsb' 32 32
  | .vHi => (s.v.extractLsb' 64 2).setWidth 32
  | .tLo => s.t.extractLsb' 0 32
  | .tHi => (s.t.extractLsb' 32 10).setWidth 32
  | .rnd => s.r.setWidth 32
  | .hid => s.h.setWidth 32
  | .mLo => s.m.extractLsb' 0 32
  | .mHi => (s.m.extractLsb' 32 10).setWidth 32
  | .slenR => s.slen.setWidth 32
  | .str0 => s.strWord 0 (by decide)
  | .str1 => s.strWord 4 (by decide)
  | .str2 => s.strWord 8 (by decide)
  | .str3 => s.strWord 12 (by decide)
  | .fragR => wordOfBytes s.frag[0] s.frag[1] s.frag[2] s.frag[3]
  | .alpha j =>
    wordOfBytes (Machine.alpha (BitVec.ofNat 6 (4 * j.val))) (Machine.alpha (BitVec.ofNat 6 (4 * j.val + 1)))
      (Machine.alpha (BitVec.ofNat 6 (4 * j.val + 2))) (Machine.alpha (BitVec.ofNat 6 (4 * j.val + 3)))
  | .reserved => 0#32

/-- STR[j..j+3] hold the four bytes of `w`, the other characters stay (20_memory.md R52, R53). -/
def State.setStrWord (s : State) (j : Nat) (w : Word) (hj : j + 3 < 16) : State :=
  s.setStr ((((s.str.set j (byteOfWord w 0)).set (j + 1) (byteOfWord w 1)).set (j + 2) (byteOfWord w 2)).set
    (j + 3) (byteOfWord w 3))

/-- A host write of a word (20_memory.md R52, R53): it sets the register bits its named fields cover and no others; writes
to read-only and reserved words are ignored (R58). The write of CMD puts the command word there; running it is
`runCommand`'s. -/
def writeReg (s : State) (w : Word) : WindowReg → State
  | .cmd => s.setCmd w
  | .status => s
  | .vLo => s.setV (s.v.extractLsb' 32 34 ++ w)
  | .vMid => s.setV (s.v.extractLsb' 64 2 ++ w ++ s.v.extractLsb' 0 32)
  | .vHi => s.setV (w.extractLsb' 0 2 ++ s.v.extractLsb' 0 64)
  | .tLo => s.setT (s.t.extractLsb' 32 10 ++ w)
  | .tHi => s.setT (w.extractLsb' 0 10 ++ s.t.extractLsb' 0 32)
  | .rnd => s.setR (w.extractLsb' 0 23)
  | .hid => s.setH (w.extractLsb' 0 1)
  | .mLo => s
  | .mHi => s
  | .slenR => s.setSlen (w.extractLsb' 0 8)
  | .str0 => s.setStrWord 0 w (by decide)
  | .str1 => s.setStrWord 4 w (by decide)
  | .str2 => s.setStrWord 8 w (by decide)
  | .str3 => s.setStrWord 12 w (by decide)
  | .fragR => s
  | .alpha _ => s
  | .reserved => s

/-- `MemRead(BASE + off, 4)` (20_memory.md R50, R52). -/
def readWord (s : State) (off : Nat) : Word := readReg s (windowReg off)

/-- `MemWrite(BASE + off, 4, w)` of a word other than CMD (20_memory.md R50, R52). -/
def writeWord (s : State) (off : Nat) (w : Word) : State := writeReg s w (windowReg off)

/-- The offset of an address in the window at `base`, if it is in it: the block decodes only `addr - BASE`, 8 bits
(20_memory.md R50; log 5). -/
def windowOffset (base addr : Nat) : Option Nat :=
  if base ≤ addr ∧ addr < base + Config.windowBytes then some (addr - base) else none

end Sys2Proof.Machine
end

