-- ==== Sys2Proof/Machine/HostPort.lean ====
section
/-! DEFINITION. What the block does with one event of the host port: a read, a write, a command, a reset
(20_memory.md R56 to R61; 30_encoding.md R70; 70_reset_and_hazards.md R222). -/

namespace Sys2Proof.Machine

/-- The command whose word is in CMD runs to completion, and CMD holds none afterwards (20_memory.md R61,
70_reset_and_hazards.md R229; log 3). -/
def completeCommand (o : Host.Outcome State Fault Refusal) : Host.Outcome State Fault Refusal :=
  match o with
  | .next t => .next (t.setCmd 0#32)
  | .fault f => .fault f
  | .refused x => .refused x

/-- The command word in CMD is checked and run: an illegal word raises ILLEGAL_COMMAND and has no other effect
(30_encoding.md R70, R73; 60_exceptions.md R192). -/
def runCommand (s : State) : Host.Outcome State Fault Refusal :=
  completeCommand
    (match decode s.cmd with
    | .ok i => exec i s
    | .error _ => .next (raise .illegalCommand s))

/-- A supported read at an offset of the window: the word goes to the host, and nothing else happens (20_memory.md R58). -/
def hostRead (s : State) (off : Nat) : Host.Outcome State Fault Refusal := .next (s.reply (readWord s off))

/-- A supported write at an offset of the window; a write to CMD also runs its command (20_memory.md R58). -/
def hostWrite (s : State) (off : Nat) (w : Word) : Host.Outcome State Fault Refusal :=
  match windowReg off with
  | .cmd => runCommand (writeWord s off w)
  | _ => .next (writeWord s off w)

/-- A 32-bit access reaches the block: its address is in the window and its offset a multiple of 4, or it stops
(20_memory.md R50, R56; logs 4 and 5). -/
def atOffset (s : State) (addr : Nat) (k : Nat → Host.Outcome State Fault Refusal) :
    Host.Outcome State Fault Refusal :=
  match windowOffset s.base addr with
  | none => .fault .outsideWindow
  | some off => if off % 4 = 0 then k off else .refused .misalignedAccess

/-- An access of another width stops: outside the window like any access, inside it because no such access has a meaning
(20_memory.md R50, R56; logs 4 and 5). -/
def otherWidthAccess (s : State) (addr : Nat) : Host.Outcome State Fault Refusal :=
  match windowOffset s.base addr with
  | none => .fault .outsideWindow
  | some _ => .refused .unsupportedWidth

/-- One event of the host port. -/
def perform (s : State) : HostEvent → Host.Outcome State Fault Refusal
  | .read addr => atOffset s addr (hostRead s)
  | .write addr w => atOffset s addr (fun off => hostWrite s off w)
  | .otherWidth _ _ addr => otherWidthAccess s addr
  | .reset => .next (platformReset s)

/-- The oldest pending event leaves the queue and is performed; with none pending the block is quiescent and stays as it is
(20_memory.md R61, 70_reset_and_hazards.md R229; log 2). -/
def performNext (s : State) : Host.Outcome State Fault Refusal :=
  match s.pending with
  | [] => .next s
  | e :: rest => perform (s.setPending rest) e

/-- The host's next access becomes the write of the command word `w` to CMD (30_encoding.md R70). -/
def issueCommand (s : State) (w : Word) : State := s.setPending (.write s.base w :: s.pending)

end Sys2Proof.Machine
end

