-- ==== Sys2Proof/Machine/Step.lean ====
section
/-! DEFINITION. One step: one event of the host port, performed whole (20_memory.md R61, 70_reset_and_hazards.md R228). -/

namespace Sys2Proof.Machine

/-- One step. The block fetches no instructions (10_state.md R21): what it does next is the oldest pending host event. -/
def step (s : State) : Host.Outcome State Fault Refusal := performNext s

/-- `s` with the instruction whose table bits are `w` as the host's next access, a write to CMD (30_encoding.md R70;
log 2). -/
def State.withFetchWord (s : State) (nbits w : Nat) : State := issueCommand s (BitVec.ofNat 32 (w % 2 ^ nbits))

end Sys2Proof.Machine
end

