-- ==== Sys2Proof/Machine/Assembler.lean ====
section
/-! DEFINITION. The assembler of 30_encoding.md R75 and R76: from a line of a host program to the host access it stands
for. Syntax has no behaviour (92_eei_decisions.md D25): `step` does not use this file. -/

namespace Sys2Proof.Machine

/-- A command as an assembler line writes it, pseudo-commands among them; bit counts are decimal numbers of any size
(30_encoding.md R75, R76). -/
inductive AsmCommand where
  | nop
  | enc (n : Nat)
  | dec (n : Nat)
  | stretch
  | pack
  | unpack
  | gen
  | parse
  | enc66
  | dec66
  | enc23
  | dec23
  | clrStatus
  deriving DecidableEq, Repr

/-- The place of a host access: a register name of 20_memory.md R52 or an offset (30_encoding.md R75). -/
inductive AsmPlace where
  | named (reg : WindowReg)
  | offset (off : Nat)
  deriving DecidableEq, Repr

/-- A line of a host program (30_encoding.md R75). -/
inductive AsmLine where
  | command (c : AsmCommand)
  | write (p : AsmPlace) (w : Word)
  | read (p : AsmPlace)
  deriving DecidableEq, Repr

/-- A command with a bit count: refused outside 1 to 66 (30_encoding.md R75). -/
def countedCommand (n : Nat) (mk : BitCount → Instr) : Option Instr :=
  if 1 ≤ n ∧ n ≤ Config.nMax then some (mk (BitVec.ofNat 7 n)) else none

/-- The command a mnemonic or a pseudo-command stands for (30_encoding.md R75, R76). -/
def asmInstr : AsmCommand → Option Instr
  | .nop => some .nop
  | .enc n => countedCommand n .enc
  | .dec n => countedCommand n .dec
  | .stretch => some .stretch
  | .pack => some .pack
  | .unpack => some .unpack
  | .gen => some .gen
  | .parse => some .parse
  | .enc66 => countedCommand 66 .enc
  | .dec66 => countedCommand 66 .dec
  | .enc23 => countedCommand 23 .enc
  | .dec23 => countedCommand 23 .dec
  | .clrStatus => some .nop

/-- The word the assembler emits, `(n << 4) | OP` (30_encoding.md R75, R76, R77). -/
def assemble (c : AsmCommand) : Option Word := (asmInstr c).map encode

/-- The offset of a named word; `reserved` names no one word (20_memory.md R52). -/
def offsetOf : WindowReg → Option Nat
  | .cmd => some 0x00
  | .status => some 0x04
  | .vLo => some 0x08
  | .vMid => some 0x0C
  | .vHi => some 0x10
  | .tLo => some 0x14
  | .tHi => some 0x18
  | .rnd => some 0x1C
  | .hid => some 0x20
  | .mLo => some 0x24
  | .mHi => some 0x28
  | .slenR => some 0x2C
  | .str0 => some 0x30
  | .str1 => some 0x34
  | .str2 => some 0x38
  | .str3 => some 0x3C
  | .fragR => some 0x40
  | .alpha j => some (0x80 + 4 * j.val)
  | .reserved => none

/-- The offset of the place of a host access. -/
def placeOffset : AsmPlace → Option Nat
  | .named reg => offsetOf reg
  | .offset off => some off

/-- The host access a line stands for, on a block at `base`; a command stands for `write CMD, <its word>`
(30_encoding.md R75). -/
def assembleLine (base : Nat) : AsmLine → Option HostEvent
  | .command c => (assemble c).map (fun w => .write base w)
  | .write p w => (placeOffset p).map (fun off => .write (base + off) w)
  | .read p => (placeOffset p).map (fun off => .read (base + off))

end Sys2Proof.Machine
end

