-- ==== Sys2Proof/Safety.lean ====
section
/-! DEFINITION. The terms of the claims: which command words are legal, which host events are within the contract, and the
invariant every step keeps. -/

namespace Sys2Proof.Machine

/-- `legal(w)` of 30_encoding.md R73, on the word as a number: OP is `w mod 16`, N is bits 10:4, RSV is bits 31:11. -/
abbrev LegalWord (w : Word) : Prop :=
  w.toNat / 2048 = 0 ∧
    (((w.toNat % 16 = 1 ∨ w.toNat % 16 = 2) ∧ 1 ≤ w.toNat / 16 % 128 ∧ w.toNat / 16 % 128 ≤ 66) ∨
      ((w.toNat % 16 = 0 ∨ w.toNat % 16 = 3 ∨ w.toNat % 16 = 4 ∨ w.toNat % 16 = 5 ∨ w.toNat % 16 = 6 ∨
        w.toNat % 16 = 7) ∧ w.toNat / 16 % 128 = 0))

/-- A 32-bit access within the contract: in the window at `base` and at an offset that is a multiple of 4
(20_memory.md R50, R56). -/
def accessInContract (base addr : Nat) : Bool :=
  decide (base ≤ addr ∧ addr < base + Config.windowBytes ∧ (addr - base) % 4 = 0)

/-- An event within the contract: a supported 32-bit access, or the reset input (20_memory.md R56,
70_reset_and_hazards.md R222). -/
def inContract (base : Nat) : HostEvent → Bool
  | .read addr => accessInContract base addr
  | .write addr _ => accessInContract base addr
  | .otherWidth _ _ _ => false
  | .reset => true

/-- A host program within the contract: every event still to perform is (20_memory.md R56). -/
abbrev SafeProgram (s : State) : Prop := ∀ e ∈ s.pending, inContract s.base e = true

/-- Whether an event is a read, which returns a word to the host. -/
def isRead : HostEvent → Bool
  | .read _ => true
  | .write _ _ => false
  | .otherWidth _ _ _ => false
  | .reset => false

/-- The values STATUS can hold: bits 3:2 are 0, ERRIDX is 0 unless ERR is INVALID_CHARACTER, and then at most 10
(10_state.md R31). -/
abbrev StatusLegal (x : BitVec 8) : Prop :=
  x.extractLsb' 2 2 = 0#2 ∧
    (x.extractLsb' 0 2 ≠ 2#2 → x.extractLsb' 4 4 = 0#4) ∧ (x.extractLsb' 4 4).toNat ≤ 10

/-- M is 0 or a mask: it is `stretch` of some random field, and `stretch 0 = 0` (10_state.md R27, 41_mixer.md R133). -/
def MaskLegal (m : Stamp) : Prop := ∃ r, m = stretch r

/-- FRAG is as reset left it or the fragment of some random field (10_state.md R30, 43_parser.md R176). -/
def FragLegal (f : Vector Byte 4) : Prop := f = Vector.replicate 4 0#8 ∨ ∃ r, f = fragmentOf r

/-- What holds of the block between host accesses: no command is in progress, and every register the host cannot write
holds a value that some command or reset put there (10_state.md R20, R27, R30, R31; 70_reset_and_hazards.md R229). -/
def Inv (s : State) : Prop := s.cmd = 0#32 ∧ StatusLegal s.status ∧ MaskLegal s.m ∧ FragLegal s.frag

end Sys2Proof.Machine
end

