-- ==== Sys2Proof/Certificates/Slice0/Obligations.lean ====
section
/-! DEFINITION. The statements about the machine, for the provers. Rules of spec/ are named in each docstring. -/

namespace Sys2Proof.Machine.Claims

/-! The terms the statements share, each in the spec's words and in plain arithmetic. -/

/-- A byte is one of the 64 alphabet codes (10_state.md R34). -/
abbrev ValidChar (b : Byte) : Prop := ∃ i : Index, alpha i = b

/-- `d_j` of 40_codec.md R104: the index of a valid character. -/
def digit (b : Byte) : Nat := ((lookup b).getD 0#6).toNat

/-- `X` of 40_codec.md R104: the sum over j < k of `d_j << 6(k-1-j)`. -/
def stringNumber (cs : List Byte) (k : Nat) : Nat :=
  ∑ j ∈ Finset.range k, digit (cs.getD j 0#8) * 2 ^ (6 * (k - 1 - j))

/-- `X[6(k-1-j)+5 : 6(k-1-j)]` of 40_codec.md R103, with `X = (v mod 2^n) << (6k - n)` and `k = ceil(n/6)`. -/
def encodeDigit (v n j : Nat) : Nat :=
  (v % 2 ^ n * 2 ^ (6 * ((n + 5) / 6) - n)) / 2 ^ (6 * ((n + 5) / 6 - 1 - j)) % 64

/-- The loop of 40_codec.md R102 on natural numbers: `acc = (acc << w) | (idx >> (6 - w))` with `w = min(6, rem)`. -/
def accumulate : List Byte → Nat → Nat → Nat
  | [], _, acc => acc
  | c :: cs, rem, acc => accumulate cs (rem - min 6 rem) (acc * 2 ^ min 6 rem + digit c / 2 ^ (6 - min 6 rem))

/-- The pseudocode of 41_mixer.md R130 on natural numbers. -/
def mixNat (r : Nat) : Nat :=
  let x1 := r ^^^ (r / 2 ^ 13)
  let x2 := x1 * 0x9e3779b97f4a7c15 % 2 ^ 64
  let x3 := x2 ^^^ (x2 / 2 ^ 12)
  let x4 := x3 * 0xbf58476d1ce4e5b9 % 2 ^ 64
  (x4 ^^^ (x4 / 2 ^ 15)) % 2 ^ 42

/-- The first `k` characters of STR are in the alphabet. -/
abbrev ValidString (s : State) (k : Nat) : Prop := ∀ j : Fin 16, j.val < k → ValidChar s.str[j]

/-- `STR[j]` is not in the alphabet, and every earlier character is. -/
abbrev FirstBadChar (s : State) (j : Fin 16) : Prop := ¬ ValidChar s.str[j] ∧ ValidString s j.val

/-- The bits a host write of each RW word sets (20_memory.md R52); none for CMD, read-only and reserved words. -/
def rwMask : Nat → Option Word
  | 0x08 => some 0xFFFFFFFF#32
  | 0x0C => some 0xFFFFFFFF#32
  | 0x10 => some 0x00000003#32
  | 0x14 => some 0xFFFFFFFF#32
  | 0x18 => some 0x000003FF#32
  | 0x1C => some 0x007FFFFF#32
  | 0x20 => some 0x00000001#32
  | 0x2C => some 0x000000FF#32
  | 0x30 => some 0xFFFFFFFF#32
  | 0x34 => some 0xFFFFFFFF#32
  | 0x38 => some 0xFFFFFFFF#32
  | 0x3C => some 0xFFFFFFFF#32
  | _ => none

/-- The registers each command reads agree (30_encoding.md R72, column "reads"). -/
def AgreeOnReads : Instr → State → State → Prop
  | .nop, _, _ => True
  | .enc _, a, b => a.v = b.v
  | .dec _, a, b => a.str = b.str ∧ a.slen = b.slen
  | .stretch, a, b => a.r = b.r
  | .pack, a, b => a.t = b.t ∧ a.h = b.h ∧ a.r = b.r
  | .unpack, a, b => a.v = b.v
  | .gen, a, b => a.t = b.t ∧ a.h = b.h ∧ a.r = b.r
  | .parse, a, b => a.str = b.str ∧ a.slen = b.slen

/-- The registers each command writes on success agree (30_encoding.md R72, column "writes on success"). -/
def AgreeOnWrites : Instr → State → State → Prop
  | .nop, a, b => a.status = b.status
  | .enc _, a, b => a.str = b.str ∧ a.slen = b.slen ∧ a.status = b.status
  | .dec _, a, b => a.v = b.v ∧ a.status = b.status
  | .stretch, a, b => a.m = b.m ∧ a.status = b.status
  | .pack, a, b => a.v = b.v ∧ a.status = b.status
  | .unpack, a, b => a.t = b.t ∧ a.h = b.h ∧ a.r = b.r ∧ a.status = b.status
  | .gen, a, b => a.v = b.v ∧ a.str = b.str ∧ a.slen = b.slen ∧ a.status = b.status
  | .parse, a, b =>
    a.v = b.v ∧ a.t = b.t ∧ a.h = b.h ∧ a.r = b.r ∧ a.frag = b.frag ∧ a.status = b.status

/-- `b` is `a` but for the registers the command writes (30_encoding.md R72, column "writes on success"). -/
def ChangesOnlyWrites : Instr → State → State → Prop
  | .nop, a, b => b = { a with status := b.status }
  | .enc _, a, b => b = { a with str := b.str, slen := b.slen, status := b.status }
  | .dec _, a, b => b = { a with v := b.v, status := b.status }
  | .stretch, a, b => b = { a with m := b.m, status := b.status }
  | .pack, a, b => b = { a with v := b.v, status := b.status }
  | .unpack, a, b => b = { a with t := b.t, h := b.h, r := b.r, status := b.status }
  | .gen, a, b => b = { a with v := b.v, str := b.str, slen := b.slen, status := b.status }
  | .parse, a, b => b = { a with v := b.v, t := b.t, h := b.h, r := b.r, frag := b.frag, status := b.status }

end Sys2Proof.Machine.Claims

section
open Sys2Proof Sys2Proof.Machine Sys2Proof.Machine.Claims

/-! ### Command words -/

/-- Decoding the word of a well-formed command gives it back (30_encoding.md section 2). -/
def Obligations.DecodeOfEncodeIsIdentity : Prop :=
  ∀ i : Instr, WellFormed i → decode (encode i) = .ok i

/-- A word that decodes to a command is that command's one word, and the command is well formed
(30_encoding.md section 2). -/
def Obligations.DecodedWordIsItsOnlyEncoding : Prop :=
  ∀ (w : Word) (i : Instr), decode w = .ok i → WellFormed i ∧ encode i = w

/-- 30_encoding.md R73, 60_exceptions.md R192: a word that fails `legal(w)` raises ILLEGAL_COMMAND (ERR 3, ERRIDX 0) and
has no other effect; a word that passes it is a command. The premise on CMD is the invariant `Inv`. -/
def Obligations.IllegalWordOnlyRaisesIllegalCommand : Prop :=
  (∀ (s : State) (w : Word) (rest : List HostEvent),
    s.pending = .write s.base w :: rest → s.cmd = 0#32 → ¬ LegalWord w →
      step s = .next { s with pending := rest, status := 3#8 }) ∧
  ∀ w : Word, LegalWord w → ∃ i, decode w = .ok i ∧ WellFormed i

/-- A host write of a legal command word runs the decoded command, with the write taken off the queue and the word in CMD,
and then CMD holds 0 (30_encoding.md section 1, 20_memory.md section 6). That the word stands in CMD meanwhile is the
model's choice, log 3. -/
def Obligations.StepRunsDecodedCommand : Prop :=
  ∀ (s : State) (w : Word) (rest : List HostEvent) (i : Instr),
    s.pending = .write s.base w :: rest → decode w = .ok i →
      ∃ t, exec i { s with pending := rest, cmd := w } = .next t ∧ step s = .next { t with cmd := 0#32 }

/-- A few command words of 30_encoding.md sections 2 and 3 and 95_test_vectors.md section 2.6, and the commands they stand
for. -/
def Obligations.WrittenWordsDecodeAsTheSpecSays : Prop :=
  decode 0x00000000#32 = .ok .nop ∧ decode 0x00000421#32 = .ok (.enc 66#7) ∧
  decode 0x000002A2#32 = .ok (.dec 42#7) ∧ decode 0x00000003#32 = .ok .stretch ∧
  decode 0x00000004#32 = .ok .pack ∧ decode 0x00000005#32 = .ok .unpack ∧
  decode 0x00000006#32 = .ok .gen ∧ decode 0x00000007#32 = .ok .parse ∧
  decode 0x00000008#32 = .error .reservedOpcode ∧ decode 0x80000421#32 = .error .reservedBits ∧
  decode 0x00000431#32 = .error .bitCountOutOfRange ∧ decode 0x00000013#32 = .error .bitCountNotZero

/-- The assembler emits `(n << 4) | OP` for ENC and DEC with n in 1..66 and nothing for any other n, and every word it
emits decodes (30_encoding.md section 3). -/
def Obligations.AssemblerEmitsLegalWords : Prop :=
  (∀ n : Nat, 1 ≤ n → n ≤ 66 →
    assemble (.enc n) = some (BitVec.ofNat 32 (n * 16 + 1)) ∧ assemble (.dec n) = some (BitVec.ofNat 32 (n * 16 + 2))) ∧
  (∀ n : Nat, n = 0 ∨ 66 < n → assemble (.enc n) = none ∧ assemble (.dec n) = none) ∧
  ∀ (c : AsmCommand) (w : Word), assemble c = some w → ∃ i, decode w = .ok i ∧ asmInstr c = some i

/-! ### The alphabet -/

/-- `lookup` and ALPHA are inverse: an index is found for a byte exactly when it is the entry's (10_state.md section 3). -/
def Obligations.LookupInvertsAlphabet : Prop :=
  ∀ (b : Byte) (i : Index), lookup b = some i ↔ alpha i = b

/-- In every state, byte `i mod 4` of the word at 0x80 + 4 (i / 4) is entry i of the alphabet: `A`-`Z`, `a`-`z`, `0`-`9`,
`-`, `_` as ASCII codes (10_state.md section 3, 20_memory.md section 2). -/
def Obligations.AlphabetWindowHoldsTheTable : Prop :=
  ∀ (s : State) (i : Nat), i < 64 →
    (readWord s (0x80 + 4 * (i / 4))).toNat / 2 ^ (8 * (i % 4)) % 256 =
      if i < 26 then 0x41 + i else if i < 52 then 0x61 + (i - 26) else if i < 62 then 0x30 + (i - 52)
      else if i = 62 then 0x2D else 0x5F

/-! ### The codec functions -/

/-- 40_codec.md R100, R101: `encodeBits(v, N)` has `ceil(N/6)` characters; character j is ALPHA of the bits
`[rem_j - 1 : rem_j - w_j]` of v, with `rem_j = N - 6j` and `w_j = min(6, rem_j)`, moved to the high end of the 6-bit
slot. -/
def Obligations.EncodeBitsCutsGroups : Prop :=
  ∀ (v : Value) (n : Nat), 1 ≤ n → n ≤ 66 →
    (encodeBits v n).length = (n + 5) / 6 ∧
    ∀ j, j < (n + 5) / 6 →
      (encodeBits v n)[j]? =
        some (alpha (BitVec.ofNat 6
          (v.toNat / 2 ^ (n - 6 * j - min 6 (n - 6 * j)) % 2 ^ min 6 (n - 6 * j) * 2 ^ (6 - min 6 (n - 6 * j)))))

/-- Bits of v at or above N never reach a character (40_codec.md section 2). -/
def Obligations.EncodeIgnoresHighBits : Prop :=
  ∀ (v u : Value) (n : Nat), 1 ≤ n → n ≤ 66 → v.toNat % 2 ^ n = u.toNat % 2 ^ n → encodeBits v n = encodeBits u n

/-- 40_codec.md R102: `decodeBits(s, len, N)` raises INVALID_LENGTH when `len` is not `ceil(N/6)`, else
INVALID_CHARACTER(j) for the first character not in the alphabet, else returns the accumulated value, below 2^N. -/
def Obligations.DecodeBitsChecksThenAccumulates : Prop :=
  ∀ (cs : List Byte) (len n : Nat), 1 ≤ n → n ≤ 66 → cs.length = len →
    (len ≠ (n + 5) / 6 → decodeBits cs len n = .error .invalidLength) ∧
    (len = (n + 5) / 6 → ∀ j, j < len → ¬ ValidChar (cs.getD j 0#8) → (∀ i, i < j → ValidChar (cs.getD i 0#8)) →
      decodeBits cs len n = .error (.invalidCharacter j)) ∧
    (len = (n + 5) / 6 → (∀ j, j < len → ValidChar (cs.getD j 0#8)) →
      ∃ v : Value, decodeBits cs len n = .ok v ∧ v.toNat = accumulate cs n 0 ∧ v.toNat < 2 ^ n)

/-- The closed form of decode: `X >> p` with `X` the sum of the digits and `p = 6k - N` (40_codec.md section 2). -/
def Obligations.DecodeBitsClosedForm : Prop :=
  ∀ (cs : List Byte) (len n : Nat) (v : Value), 1 ≤ n → n ≤ 66 → cs.length = len → decodeBits cs len n = .ok v →
    v.toNat = stringNumber cs ((n + 5) / 6) / 2 ^ (6 * ((n + 5) / 6) - n)

/-- decodeBits returns a value exactly when the length is `ceil(N/6)` and every character is in the alphabet
(40_codec.md section 2). -/
def Obligations.DecodeBitsSucceedsOnWellFormedStrings : Prop :=
  ∀ (cs : List Byte) (len n : Nat), 1 ≤ n → n ≤ 66 → cs.length = len →
    ((∃ v, decodeBits cs len n = .ok v) ↔ len = (n + 5) / 6 ∧ ∀ c ∈ cs, ValidChar c)

/-- 40_codec.md R106: decoding the encoding of v gives `v mod 2^N`. -/
def Obligations.DecodeOfEncodeBitsIsValue : Prop :=
  ∀ (v : Value) (n : Nat), 1 ≤ n → n ≤ 66 →
    ∃ u : Value, decodeBits (encodeBits v n) ((n + 5) / 6) n = .ok u ∧ u.toNat = v.toNat % 2 ^ n

/-- Encoding the value of a string of valid characters gives the string back with the `6k - N` low bits of the last
character's index cleared; when N is a multiple of 6 that is the string itself (40_codec.md section 2). -/
def Obligations.EncodeOfDecodeBitsIsCanonicalString : Prop :=
  ∀ (cs : List Byte) (n : Nat), 1 ≤ n → n ≤ 66 → cs.length = (n + 5) / 6 → (∀ c ∈ cs, ValidChar c) →
    ∃ v : Value, decodeBits cs cs.length n = .ok v ∧
      encodeBits v n = cs.take (cs.length - 1) ++
        [alpha (BitVec.ofNat 6
          (digit (cs.getD (cs.length - 1) 0#8) / 2 ^ (6 * cs.length - n) * 2 ^ (6 * cs.length - n)))] ∧
      (n % 6 = 0 → encodeBits v n = cs)

/-! ### NOP, ENC, DEC -/

/-- NOP runs, clears STATUS as the host reads it and changes no other register, so every other word of the window reads as
before (60_exceptions.md section 4). -/
def Obligations.NopClearsStatusOnly : Prop :=
  ∀ s : State, ∃ t, exec .nop s = .next t ∧ t = { s with status := t.status } ∧ readWord t 0x04 = 0#32 ∧
    ∀ off, off ≠ 0x04 → readWord t off = readWord s off

/-- ENC n runs for every n in 1..66: SLEN becomes `k = ceil(n/6)`, STR[j] the j-th digit of `(V mod 2^n) << (6k - n)` for
j below k and 0x00 above, STATUS 0, and nothing else changes (40_codec.md sections 2 and 3). -/
def Obligations.EncWritesDigitsOfV : Prop :=
  ∀ (n : BitCount) (s : State), 1 ≤ n.toNat → n.toNat ≤ 66 →
    ∃ t, exec (.enc n) s = .next t ∧ t = { s with str := t.str, slen := t.slen, status := 0#8 } ∧
      t.slen.toNat = (n.toNat + 5) / 6 ∧
      ∀ j : Fin 16, t.str[j] =
        if j.val < (n.toNat + 5) / 6 then alpha (BitVec.ofNat 6 (encodeDigit s.v.toNat n.toNat j.val)) else 0#8

/-- DEC n runs for every n in 1..66 when SLEN is `k = ceil(n/6)` and the first k characters are in the alphabet: V becomes
the number the string writes in base 64 less its `6k - n` padding bits, STATUS 0, and nothing else changes
(40_codec.md sections 2 and 3). -/
def Obligations.DecWritesNumberOfString : Prop :=
  ∀ (n : BitCount) (s : State), 1 ≤ n.toNat → n.toNat ≤ 66 → s.slen.toNat = (n.toNat + 5) / 6 →
    ValidString s ((n.toNat + 5) / 6) →
    ∃ t, exec (.dec n) s = .next t ∧ t = { s with v := t.v, status := 0#8 } ∧
      t.v.toNat = stringNumber s.str.toList ((n.toNat + 5) / 6) / 2 ^ (6 * ((n.toNat + 5) / 6) - n.toNat)

/-- DEC n and PARSE with SLEN not the expected count report INVALID_LENGTH, whatever STR holds, and change nothing else
(60_exceptions.md sections 1 and 2). -/
def Obligations.WrongLengthIsReportedBeforeCharacters : Prop :=
  (∀ (n : BitCount) (s : State), 1 ≤ n.toNat → n.toNat ≤ 66 → s.slen.toNat ≠ (n.toNat + 5) / 6 →
    exec (.dec n) s = .next { s with status := 1#8 }) ∧
  ∀ s : State, s.slen ≠ 11#8 → exec .parse s = .next { s with status := 1#8 }

/-- DEC n and PARSE with the expected SLEN report the lowest index of a character not in the alphabet,
`STATUS = 16 j + 2`, and change nothing else (60_exceptions.md sections 1 and 2). -/
def Obligations.FirstBadCharacterIsReported : Prop :=
  (∀ (n : BitCount) (s : State) (j : Fin 16), 1 ≤ n.toNat → n.toNat ≤ 66 → s.slen.toNat = (n.toNat + 5) / 6 →
    j.val < (n.toNat + 5) / 6 → FirstBadChar s j →
    exec (.dec n) s = .next { s with status := BitVec.ofNat 8 (16 * j.val + 2) }) ∧
  ∀ (s : State) (j : Fin 16), s.slen = 11#8 → j.val < 11 → FirstBadChar s j →
    exec .parse s = .next { s with status := BitVec.ofNat 8 (16 * j.val + 2) }

/-- ENC and DEC with a bit count outside 1..66 report ILLEGAL_COMMAND and change nothing else, whatever the registers hold
(30_encoding.md section 2). -/
def Obligations.BitCountOutOfRangeIsIllegal : Prop :=
  ∀ (n : BitCount) (s : State), n.toNat = 0 ∨ 66 < n.toNat →
    exec (.enc n) s = .next { s with status := 3#8 } ∧ exec (.dec n) s = .next { s with status := 3#8 }

/-! ### STRETCH -/

/-- STRETCH runs: M becomes the three rounds of 41_mixer.md section 1 on the number R, STATUS 0, and nothing else changes.
The rounds and the width are the spec's decisions D10 and D11 (log 6). -/
def Obligations.StretchWritesMixedMask : Prop :=
  ∀ s : State, ∃ t, exec .stretch s = .next t ∧ t = { s with m := t.m, status := 0#8 } ∧
    t.m.toNat = mixNat s.r.toNat

/-- Every mixer of the document's shape, whatever its width, shifts and constants, maps 0 to 0, so STRETCH with R = 0
writes M = 0 (41_mixer.md section 2). -/
def Obligations.MaskOfZeroIsZeroForEveryMixer : Prop :=
  (∀ p : MixParams, stretchWith p 0#23 = 0#42) ∧
  ∀ s : State, s.r = 0#23 → exec .stretch s = .next { s with m := 0#42, status := 0#8 }

/-- Masking a timestamp twice with one random field gives it back, whatever the flag (41_mixer.md section 2). -/
def Obligations.ObfuscationIsInvolution : Prop :=
  ∀ (h : BitVec 1) (r : Rnd) (t : Stamp), obfuscate h r (obfuscate h r t) = t

/-! ### PACK and GEN -/

/-- 42_generator.md R150: PACK runs and V becomes `(ft << 24) | (h << 23) | r`, with `ft` the timestamp XOR stretch(r)
when the flag is 1 and the timestamp itself when it is 0; STATUS is 0 and nothing else changes. -/
def Obligations.PackWritesRawId : Prop :=
  ∀ s : State, ∃ t, exec .pack s = .next t ∧ t = { s with v := t.v, status := 0#8 } ∧
    t.v.toNat =
      (if s.h = 1#1 then s.t ^^^ stretch s.r else s.t).toNat * 2 ^ 24 + s.h.toNat * 2 ^ 23 + s.r.toNat

/-- unpack inverts pack, hidden or not (42_generator.md section 3). -/
def Obligations.UnpackInvertsPack : Prop := ∀ f : IdFields, unpack (pack f) = f

/-- pack is a bijection between the field triples and the 66-bit values (42_generator.md section 3). -/
def Obligations.PackIsBijective : Prop := Function.Bijective pack

/-- GEN runs: V becomes the RawID, STR[j] the character of its bits `V[65-6j : 60-6j]` for j in 0..10 and 0x00 above, SLEN
11, STATUS 0, and nothing else changes (42_generator.md section 2, 30_encoding.md section 4). -/
def Obligations.GenWritesIdentifier : Prop :=
  ∀ s : State, ∃ t, exec .gen s = .next t ∧
    t = { s with v := t.v, str := t.str, slen := 11#8, status := 0#8 } ∧
    t.v.toNat =
      (if s.h = 1#1 then s.t ^^^ stretch s.r else s.t).toNat * 2 ^ 24 + s.h.toNat * 2 ^ 23 + s.r.toNat ∧
    ∀ j : Fin 16, t.str[j] = if j.val < 11 then alpha (t.v.extractLsb' (60 - 6 * j.val) 6) else 0#8

/-- GEN leaves what PACK followed by ENC 66 leaves (42_generator.md section 2). -/
def Obligations.GenIsPackThenEncode66 : Prop :=
  ∀ s : State, ∃ t u, exec .pack s = .next t ∧ exec (.enc 66#7) t = .next u ∧ exec .gen s = .next u

/-- GEN writes different strings for different operands (42_generator.md section 3). -/
def Obligations.GenIsInjective : Prop :=
  ∀ s s' t t' : State, exec .gen s = .next t → exec .gen s' = .next t' → t.str = t'.str →
    s.t = s'.t ∧ s.h = s'.h ∧ s.r = s'.r

/-! ### UNPACK and PARSE -/

/-- 43_parser.md R170: UNPACK runs for every V: R becomes `V mod 2^23`, H bit 23, T bits 65:24, XOR stretch(R) when H is
1; STATUS is 0 and nothing else changes. -/
def Obligations.UnpackSplitsRawId : Prop :=
  ∀ s : State, ∃ t, exec .unpack s = .next t ∧ t = { s with t := t.t, h := t.h, r := t.r, status := 0#8 } ∧
    t.r.toNat = s.v.toNat % 2 ^ 23 ∧ t.h.toNat = s.v.toNat / 2 ^ 23 % 2 ∧
    t.t = (if t.h = 1#1 then BitVec.ofNat 42 (s.v.toNat / 2 ^ 24) ^^^ stretch t.r
      else BitVec.ofNat 42 (s.v.toNat / 2 ^ 24))

/-- UNPACK after PACK restores T, H and R, and V holds the RawID (43_parser.md section 2). -/
def Obligations.UnpackAfterPackRestoresFields : Prop :=
  ∀ s : State, ∃ t, exec .pack s = .next t ∧ exec .unpack t = .next t ∧ t.t = s.t ∧ t.h = s.h ∧ t.r = s.r

/-- PARSE runs when SLEN is 11 and the 11 characters are in the alphabet: V becomes the number the string writes in base
64, R, H and T its fields as UNPACK gives them; STATUS is 0 and nothing but V, T, H, R, FRAG and STATUS changes
(43_parser.md section 2). -/
def Obligations.ParseWritesIdentifierFields : Prop :=
  ∀ s : State, s.slen = 11#8 → ValidString s 11 →
    ∃ t, exec .parse s = .next t ∧
      t = { s with v := t.v, t := t.t, h := t.h, r := t.r, frag := t.frag, status := 0#8 } ∧
      t.v.toNat = stringNumber s.str.toList 11 ∧
      t.r.toNat = t.v.toNat % 2 ^ 23 ∧ t.h.toNat = t.v.toNat / 2 ^ 23 % 2 ∧
      t.t = (if t.h = 1#1 then BitVec.ofNat 42 (t.v.toNat / 2 ^ 24) ^^^ stretch t.r
        else BitVec.ofNat 42 (t.v.toNat / 2 ^ 24))

/-- 43_parser.md R176: after a PARSE that succeeds FRAG is `encodeBits(R, 23)`; character by character, the alphabet's
entries for `R[22:17]`, `R[16:11]`, `R[10:5]` and `R[4:0]` followed by a 0 bit. -/
def Obligations.ParseWritesFragmentOfRandomField : Prop :=
  ∀ s : State, s.slen = 11#8 → ValidString s 11 →
    ∃ t, exec .parse s = .next t ∧ t.status = 0#8 ∧ t.frag.toList = encodeBits (t.r.setWidth 66) 23 ∧
      t.frag[0] = alpha (t.r.extractLsb' 17 6) ∧ t.frag[1] = alpha (t.r.extractLsb' 11 6) ∧
      t.frag[2] = alpha (t.r.extractLsb' 5 6) ∧ t.frag[3] = alpha (t.r.extractLsb' 0 5 ++ 0#1)

/-- PARSE of the string GEN wrote succeeds and leaves T, H and R as GEN read them and FRAG the fragment of R; nothing but
FRAG differs from what GEN left (43_parser.md section 3). -/
def Obligations.ParseInvertsGen : Prop :=
  ∀ s : State, ∃ t u, exec .gen s = .next t ∧ exec .parse t = .next u ∧ u = { t with frag := u.frag } ∧
    u.t = s.t ∧ u.h = s.h ∧ u.r = s.r ∧ u.frag.toList = encodeBits (s.r.setWidth 66) 23

/-- GEN after a successful PARSE writes the parsed string again, and V as PARSE left it (43_parser.md section 3). -/
def Obligations.GenInvertsParse : Prop :=
  ∀ s : State, s.slen = 11#8 → ValidString s 11 →
    ∃ t u, exec .parse s = .next t ∧ exec .gen t = .next u ∧ u.slen = s.slen ∧ u.v = t.v ∧
      ∀ j : Fin 16, j.val < 11 → u.str[j] = s.str[j]

/-- After a successful PARSE, a host that copies FRAG_R to STR0 and 4 to SLEN_R and starts DEC 23 gets V = R
(43_parser.md section 3). -/
def Obligations.FragmentDecodesToRandomField : Prop :=
  ∀ s : State, s.slen = 11#8 → ValidString s 11 →
    ∃ t u, exec .parse s = .next t ∧
      exec (.dec 23#7) (writeWord (writeWord t 0x30 (readWord t 0x40)) 0x2C 4#32) = .next u ∧
      u.status = 0#8 ∧ u.v.toNat = t.r.toNat

/-! ### All commands -/

/-- Every command, with every operand and in every state, ends in a next state with a STATUS of 10_state.md section 2, and
leaves CMD, BASE and the host port alone (60_exceptions.md section 1). -/
def Obligations.EveryCommandCompletesWithLegalStatus : Prop :=
  ∀ (i : Instr) (s : State), ∃ t, exec i s = .next t ∧ StatusLegal t.status ∧
    t.cmd = s.cmd ∧ t.base = s.base ∧ t.pending = s.pending ∧ t.replies = s.replies

/-- Every command changes only the registers of its row's column "writes on success" (30_encoding.md section 2). -/
def Obligations.CommandsWriteOnlyTheirDestinations : Prop :=
  ∀ (i : Instr) (s t : State), exec i s = .next t → ChangesOnlyWrites i s t

/-- A command word whose command raises an error changes nothing but STATUS (60_exceptions.md section 1). The premise on
CMD is the invariant `Inv`. -/
def Obligations.FailedCommandWritesStatusOnly : Prop :=
  ∀ (s t : State) (w : Word) (rest : List HostEvent),
    s.pending = .write s.base w :: rest → s.cmd = 0#32 → step s = .next t → t.err ≠ 0#2 →
      t = { s with pending := rest, status := t.status }

/-- 10_state.md R22, 60_exceptions.md R194: from two states that agree on the registers the command reads, one command
word leaves the same STATUS and, when it succeeds, the same value in every register the command writes. -/
def Obligations.CommandResultsDependOnlyOnOperands : Prop :=
  ∀ (s s' : State) (w : Word) (rest rest' : List HostEvent),
    s.pending = .write s.base w :: rest → s'.pending = .write s'.base w :: rest' →
    (∀ i, decode w = .ok i → AgreeOnReads i s s') →
      ∃ t t', step s = .next t ∧ step s' = .next t' ∧ t.status = t'.status ∧
        ∀ i, decode w = .ok i → t.err = 0#2 → AgreeOnWrites i t t'

/-! ### The host port -/

/-- Wide registers read whole: V, T, M, STR and FRAG are put together from their words, least significant word and lowest
character first, and the other registers are read at their bits (20_memory.md sections 2 and 3). -/
def Obligations.WindowReadsShowTheRegisters : Prop :=
  ∀ s : State,
    s.v.toNat = (readWord s 0x08).toNat + 2 ^ 32 * (readWord s 0x0C).toNat + 2 ^ 64 * (readWord s 0x10).toNat ∧
    s.t.toNat = (readWord s 0x14).toNat + 2 ^ 32 * (readWord s 0x18).toNat ∧
    s.m.toNat = (readWord s 0x24).toNat + 2 ^ 32 * (readWord s 0x28).toNat ∧
    (readWord s 0x1C).toNat = s.r.toNat ∧ (readWord s 0x20).toNat = s.h.toNat ∧
    (readWord s 0x2C).toNat = s.slen.toNat ∧
    (readWord s 0x04).toNat = s.err.toNat + 16 * s.errIdx.toNat ∧
    (∀ j : Fin 16, s.str[j].toNat = (readWord s (0x30 + 4 * (j.val / 4))).toNat / 2 ^ (8 * (j.val % 4)) % 256) ∧
    ∀ j : Fin 4, s.frag[j].toNat = (readWord s 0x40).toNat / 2 ^ (8 * j.val) % 256

/-- CMD and the reserved words read 0 in every state (20_memory.md section 2). -/
def Obligations.CommandAndReservedWordsReadZero : Prop :=
  ∀ (s : State) (off : Nat), off < 256 → off % 4 = 0 → off = 0 ∨ (0x44 ≤ off ∧ off ≤ 0x7C) ∨ 0xC0 ≤ off →
    readWord s off = 0#32

/-- A host write of a word other than CMD: the word written reads back masked to its named fields, every other word of the
window reads as before, and no read-only register, queue or BASE changes (20_memory.md section 2). -/
def Obligations.HostWriteSetsItsFieldsOnly : Prop :=
  ∀ (s : State) (off : Nat) (w : Word) (mask : Word) (rest : List HostEvent),
    s.pending = .write (s.base + off) w :: rest → rwMask off = some mask →
      ∃ t, step s = .next t ∧ readWord t off = w &&& mask ∧
        (∀ off', off' ≠ off → readWord t off' = readWord s off') ∧
        t = { s with v := t.v, t := t.t, r := t.r, h := t.h, slen := t.slen, str := t.str, pending := rest }

/-- 20_memory.md R58: a read changes no register and returns its word to the host, a read of CMD returns 0; a write to a
word that is neither RW nor CMD changes nothing; a second write of one word to one place other than CMD changes nothing
more. -/
def Obligations.OnlyCommandWritesHaveSideEffects : Prop :=
  (∀ (s : State) (off : Nat) (rest : List HostEvent), off < 256 → off % 4 = 0 →
    s.pending = .read (s.base + off) :: rest →
      step s = .next { s with pending := rest, replies := s.replies ++ [readWord s off] }) ∧
  (∀ s : State, readWord s 0x00 = 0#32) ∧
  (∀ (s : State) (off : Nat) (w : Word) (rest : List HostEvent), off < 256 → off % 4 = 0 → off ≠ 0 →
    rwMask off = none → s.pending = .write (s.base + off) w :: rest → step s = .next { s with pending := rest }) ∧
  ∀ (s : State) (off : Nat) (w : Word) (rest : List HostEvent), off < 256 → off % 4 = 0 → off ≠ 0 →
    s.pending = .write (s.base + off) w :: .write (s.base + off) w :: rest →
      ∃ t, step s = .next t ∧ step t = .next { t with pending := rest }

/-- A host that writes the low 32 bits of a millisecond count to T_LO and the next 32 to T_HI leaves T the count mod 2^42
and nothing else changed (10_state.md section 2). -/
def Obligations.MillisecondCountWraps : Prop :=
  ∀ (s : State) (count : Nat) (rest : List HostEvent),
    s.pending = .write (s.base + 0x14) (BitVec.ofNat 32 count) ::
      .write (s.base + 0x18) (BitVec.ofNat 32 (count / 2 ^ 32)) :: rest →
    ∃ t u, step s = .next t ∧ step t = .next u ∧ u.t.toNat = count % 2 ^ 42 ∧
      u = { s with t := u.t, pending := rest }

/-- An access of 8, 16 or 64 bits in the window, and a 32-bit access at an offset that is no multiple of 4, is refused by
name (20_memory.md section 4). -/
def Obligations.UnsupportedAccessIsRefused : Prop :=
  (∀ (s : State) (kind : AccessKind) (width : OtherWidth) (off : Nat) (rest : List HostEvent), off < 256 →
    s.pending = .otherWidth kind width (s.base + off) :: rest → step s = .refused .unsupportedWidth) ∧
  ∀ (s : State) (off : Nat) (w : Word) (rest : List HostEvent), off < 256 → off % 4 ≠ 0 →
    (s.pending = .read (s.base + off) :: rest → step s = .refused .misalignedAccess) ∧
    (s.pending = .write (s.base + off) w :: rest → step s = .refused .misalignedAccess)

/-- An access outside the 256 bytes from BASE faults: the model's reading of 20_memory.md section 1, log 5. -/
def Obligations.AccessOutsideWindowFaults : Prop :=
  ∀ (s : State) (addr : Nat) (w : Word) (kind : AccessKind) (width : OtherWidth) (rest : List HostEvent),
    addr < s.base ∨ s.base + 256 ≤ addr →
      (s.pending = .read addr :: rest → step s = .fault .outsideWindow) ∧
      (s.pending = .write addr w :: rest → step s = .fault .outsideWindow) ∧
      (s.pending = .otherWidth kind width addr :: rest → step s = .fault .outsideWindow)

/-- A step with an event to perform ends in a next state exactly when the event is within the contract, whatever the
registers hold and whatever command word it writes (20_memory.md sections 1 and 4, 60_exceptions.md section 1). That an
access outside the window stops is the model's choice, log 5. -/
def Obligations.StepStopsOnlyOutsideTheContract : Prop :=
  ∀ (s : State) (e : HostEvent) (rest : List HostEvent), s.pending = e :: rest →
    ((∃ t, step s = .next t) ↔ inContract s.base e = true)

/-- A host program within the contract runs to its end: as many steps as it has events leave none to perform, BASE as it
was, and one reply for each read (20_memory.md section 6, 70_reset_and_hazards.md section 5). The queue of events and the
list of replies are the model's choice, log 2, and that a reset input keeps both and BASE is its reading, log 11. -/
def Obligations.HostProgramsInContractComplete : Prop :=
  ∀ s : State, SafeProgram s →
    ∃ t : State, Host.Core.run Sys2Proof.core s.pending.length s = .next t ∧ t.pending = [] ∧ t.base = s.base ∧
      t.replies.length = s.replies.length + (s.pending.filter isRead).length

/-- A read right after a command word returns what the command left (20_memory.md section 6,
70_reset_and_hazards.md section 3). -/
def Obligations.NextReadSeesCommandResults : Prop :=
  ∀ (s : State) (w : Word) (i : Instr) (off : Nat) (rest : List HostEvent),
    off < 256 → off % 4 = 0 → decode w = .ok i →
    s.pending = .write s.base w :: .read (s.base + off) :: rest →
      ∃ t u : State, exec i s = .next t ∧ Host.Core.run Sys2Proof.core 2 s = .next u ∧
        u.replies = s.replies ++ [readWord t off]

/-- STATUS, M and FRAG, which no host write can set, keep their values in every step but one that writes CMD or resets
(20_memory.md section 4, 10_state.md section 2). -/
def Obligations.ReadOnlyRegistersChangeOnlyByCommandOrReset : Prop :=
  ∀ (s t : State) (e : HostEvent) (rest : List HostEvent), s.pending = e :: rest → step s = .next t →
    (∀ w, e ≠ .write s.base w) → e ≠ .reset → t.status = s.status ∧ t.m = s.m ∧ t.frag = s.frag

/-- With no event to perform the block stays as it is: it is quiescent after every host access
(70_reset_and_hazards.md section 5). That the step is then one to the same state is the model's choice, log 2. -/
def Obligations.BlockIsQuiescentWithoutEvents : Prop :=
  ∀ s : State, s.pending = [] → step s = .next s

/-! ### Reset and the invariant -/

/-- 70_reset_and_hazards.md R220: after the reset input, from any state, every register of the block holds 0 and CMD reads
0; the same holds of the state after reset that the model starts from. -/
def Obligations.ResetLeavesEveryRegisterZero : Prop :=
  (∀ (s : State) (rest : List HostEvent), s.pending = .reset :: rest →
    ∃ t, step s = .next t ∧ t.status = 0#8 ∧ t.v = 0#66 ∧ t.t = 0#42 ∧ t.r = 0#23 ∧ t.h = 0#1 ∧ t.m = 0#42 ∧
      t.slen = 0#8 ∧ (∀ j : Fin 16, t.str[j] = 0#8) ∧ (∀ j : Fin 4, t.frag[j] = 0#8) ∧ readWord t 0x00 = 0#32) ∧
  (∀ off, off < 0x80 → readWord State.reset off = 0#32) ∧ State.reset.status = 0#8

/-- Right after reset DEC and PARSE report INVALID_LENGTH, ENC and GEN write `A` characters, STRETCH leaves M 0 and UNPACK
leaves T, H and R 0 (70_reset_and_hazards.md section 1). -/
def Obligations.CommandsRightAfterReset : Prop :=
  ∀ s : State,
    (∀ n : BitCount, 1 ≤ n.toNat → n.toNat ≤ 66 →
      exec (.dec n) (platformReset s) = .next { platformReset s with status := 1#8 } ∧
      ∃ t, exec (.enc n) (platformReset s) = .next t ∧
        ∀ j : Fin 16, j.val < (n.toNat + 5) / 6 → t.str[j] = 0x41#8) ∧
    exec .parse (platformReset s) = .next { platformReset s with status := 1#8 } ∧
    exec .stretch (platformReset s) = .next (platformReset s) ∧
    exec .unpack (platformReset s) = .next (platformReset s) ∧
    ∃ t, exec .gen (platformReset s) = .next t ∧ t.v = 0#66 ∧ ∀ j : Fin 16, j.val < 11 → t.str[j] = 0x41#8

/-- Every step keeps the invariant: CMD 0, STATUS one of its legal values, M a mask, FRAG as reset left it or a fragment
(10_state.md sections 1 and 2). That CMD is 0 between steps is the model's choice, log 3. -/
def Obligations.StepKeepsInvariant : Prop :=
  ∀ s t : State, Inv s → step s = .next t → Inv t

/-- The invariant holds right after reset (70_reset_and_hazards.md section 1). -/
def Obligations.ResetMeetsInvariant : Prop := Inv State.reset

end
end

