-- ==== Sys2Proof/Laws/Bits.lean ====
section
/-! SUPPORT. Concatenations, fields and shifts of bit vectors as arithmetic on natural numbers. -/

namespace Sys2Proof.Bits

/-- A concatenation as a number: the left part above the right one. -/
theorem append_toNat {m n : Nat} (x : BitVec m) (y : BitVec n) : (x ++ y).toNat = x.toNat * 2 ^ n + y.toNat := by
  rw [BitVec.toNat_append, ← Nat.shiftLeft_add_eq_or_of_lt y.isLt, Nat.shiftLeft_eq]

/-- A field as a number: the bits from `start` up, cut to `len` of them. -/
theorem extract_toNat {w : Nat} (x : BitVec w) (start len : Nat) :
    (x.extractLsb' start len).toNat = x.toNat / 2 ^ start % 2 ^ len := by
  rw [BitVec.extractLsb'_toNat, Nat.shiftRight_eq_div_pow]

end Sys2Proof.Bits
end

