-- ==== Sys2Proof/Laws/State.lean ====
section
/-! SUPPORT. What every register update of Machine/Ops.lean leaves in every field, so that no later proof unfolds a record
update. Each is true by rfl, and written `(rfl)` so that simp uses it as a rewrite and the kernel is not left to compare
whole states by unfolding what was written (a mask's multiplication unfolds without end). -/

namespace Sys2Proof.Machine

variable (s : State)

@[simp] theorem State.setCmd_cmd (w : Word) : (s.setCmd w).cmd = w := (rfl)
@[simp] theorem State.setCmd_status (w : Word) : (s.setCmd w).status = s.status := (rfl)
@[simp] theorem State.setCmd_v (w : Word) : (s.setCmd w).v = s.v := (rfl)
@[simp] theorem State.setCmd_t (w : Word) : (s.setCmd w).t = s.t := (rfl)
@[simp] theorem State.setCmd_r (w : Word) : (s.setCmd w).r = s.r := (rfl)
@[simp] theorem State.setCmd_h (w : Word) : (s.setCmd w).h = s.h := (rfl)
@[simp] theorem State.setCmd_m (w : Word) : (s.setCmd w).m = s.m := (rfl)
@[simp] theorem State.setCmd_slen (w : Word) : (s.setCmd w).slen = s.slen := (rfl)
@[simp] theorem State.setCmd_str (w : Word) : (s.setCmd w).str = s.str := (rfl)
@[simp] theorem State.setCmd_frag (w : Word) : (s.setCmd w).frag = s.frag := (rfl)
@[simp] theorem State.setCmd_base (w : Word) : (s.setCmd w).base = s.base := (rfl)
@[simp] theorem State.setCmd_pending (w : Word) : (s.setCmd w).pending = s.pending := (rfl)
@[simp] theorem State.setCmd_replies (w : Word) : (s.setCmd w).replies = s.replies := (rfl)

@[simp] theorem State.setStatus_cmd (x : BitVec 8) : (s.setStatus x).cmd = s.cmd := (rfl)
@[simp] theorem State.setStatus_status (x : BitVec 8) : (s.setStatus x).status = x := (rfl)
@[simp] theorem State.setStatus_v (x : BitVec 8) : (s.setStatus x).v = s.v := (rfl)
@[simp] theorem State.setStatus_t (x : BitVec 8) : (s.setStatus x).t = s.t := (rfl)
@[simp] theorem State.setStatus_r (x : BitVec 8) : (s.setStatus x).r = s.r := (rfl)
@[simp] theorem State.setStatus_h (x : BitVec 8) : (s.setStatus x).h = s.h := (rfl)
@[simp] theorem State.setStatus_m (x : BitVec 8) : (s.setStatus x).m = s.m := (rfl)
@[simp] theorem State.setStatus_slen (x : BitVec 8) : (s.setStatus x).slen = s.slen := (rfl)
@[simp] theorem State.setStatus_str (x : BitVec 8) : (s.setStatus x).str = s.str := (rfl)
@[simp] theorem State.setStatus_frag (x : BitVec 8) : (s.setStatus x).frag = s.frag := (rfl)
@[simp] theorem State.setStatus_base (x : BitVec 8) : (s.setStatus x).base = s.base := (rfl)
@[simp] theorem State.setStatus_pending (x : BitVec 8) : (s.setStatus x).pending = s.pending := (rfl)
@[simp] theorem State.setStatus_replies (x : BitVec 8) : (s.setStatus x).replies = s.replies := (rfl)

@[simp] theorem State.setV_cmd (x : Value) : (s.setV x).cmd = s.cmd := (rfl)
@[simp] theorem State.setV_status (x : Value) : (s.setV x).status = s.status := (rfl)
@[simp] theorem State.setV_v (x : Value) : (s.setV x).v = x := (rfl)
@[simp] theorem State.setV_t (x : Value) : (s.setV x).t = s.t := (rfl)
@[simp] theorem State.setV_r (x : Value) : (s.setV x).r = s.r := (rfl)
@[simp] theorem State.setV_h (x : Value) : (s.setV x).h = s.h := (rfl)
@[simp] theorem State.setV_m (x : Value) : (s.setV x).m = s.m := (rfl)
@[simp] theorem State.setV_slen (x : Value) : (s.setV x).slen = s.slen := (rfl)
@[simp] theorem State.setV_str (x : Value) : (s.setV x).str = s.str := (rfl)
@[simp] theorem State.setV_frag (x : Value) : (s.setV x).frag = s.frag := (rfl)
@[simp] theorem State.setV_base (x : Value) : (s.setV x).base = s.base := (rfl)
@[simp] theorem State.setV_pending (x : Value) : (s.setV x).pending = s.pending := (rfl)
@[simp] theorem State.setV_replies (x : Value) : (s.setV x).replies = s.replies := (rfl)

@[simp] theorem State.setT_cmd (x : Stamp) : (s.setT x).cmd = s.cmd := (rfl)
@[simp] theorem State.setT_status (x : Stamp) : (s.setT x).status = s.status := (rfl)
@[simp] theorem State.setT_v (x : Stamp) : (s.setT x).v = s.v := (rfl)
@[simp] theorem State.setT_t (x : Stamp) : (s.setT x).t = x := (rfl)
@[simp] theorem State.setT_r (x : Stamp) : (s.setT x).r = s.r := (rfl)
@[simp] theorem State.setT_h (x : Stamp) : (s.setT x).h = s.h := (rfl)
@[simp] theorem State.setT_m (x : Stamp) : (s.setT x).m = s.m := (rfl)
@[simp] theorem State.setT_slen (x : Stamp) : (s.setT x).slen = s.slen := (rfl)
@[simp] theorem State.setT_str (x : Stamp) : (s.setT x).str = s.str := (rfl)
@[simp] theorem State.setT_frag (x : Stamp) : (s.setT x).frag = s.frag := (rfl)
@[simp] theorem State.setT_base (x : Stamp) : (s.setT x).base = s.base := (rfl)
@[simp] theorem State.setT_pending (x : Stamp) : (s.setT x).pending = s.pending := (rfl)
@[simp] theorem State.setT_replies (x : Stamp) : (s.setT x).replies = s.replies := (rfl)

@[simp] theorem State.setR_cmd (x : Rnd) : (s.setR x).cmd = s.cmd := (rfl)
@[simp] theorem State.setR_status (x : Rnd) : (s.setR x).status = s.status := (rfl)
@[simp] theorem State.setR_v (x : Rnd) : (s.setR x).v = s.v := (rfl)
@[simp] theorem State.setR_t (x : Rnd) : (s.setR x).t = s.t := (rfl)
@[simp] theorem State.setR_r (x : Rnd) : (s.setR x).r = x := (rfl)
@[simp] theorem State.setR_h (x : Rnd) : (s.setR x).h = s.h := (rfl)
@[simp] theorem State.setR_m (x : Rnd) : (s.setR x).m = s.m := (rfl)
@[simp] theorem State.setR_slen (x : Rnd) : (s.setR x).slen = s.slen := (rfl)
@[simp] theorem State.setR_str (x : Rnd) : (s.setR x).str = s.str := (rfl)
@[simp] theorem State.setR_frag (x : Rnd) : (s.setR x).frag = s.frag := (rfl)
@[simp] theorem State.setR_base (x : Rnd) : (s.setR x).base = s.base := (rfl)
@[simp] theorem State.setR_pending (x : Rnd) : (s.setR x).pending = s.pending := (rfl)
@[simp] theorem State.setR_replies (x : Rnd) : (s.setR x).replies = s.replies := (rfl)

@[simp] theorem State.setH_cmd (x : BitVec 1) : (s.setH x).cmd = s.cmd := (rfl)
@[simp] theorem State.setH_status (x : BitVec 1) : (s.setH x).status = s.status := (rfl)
@[simp] theorem State.setH_v (x : BitVec 1) : (s.setH x).v = s.v := (rfl)
@[simp] theorem State.setH_t (x : BitVec 1) : (s.setH x).t = s.t := (rfl)
@[simp] theorem State.setH_r (x : BitVec 1) : (s.setH x).r = s.r := (rfl)
@[simp] theorem State.setH_h (x : BitVec 1) : (s.setH x).h = x := (rfl)
@[simp] theorem State.setH_m (x : BitVec 1) : (s.setH x).m = s.m := (rfl)
@[simp] theorem State.setH_slen (x : BitVec 1) : (s.setH x).slen = s.slen := (rfl)
@[simp] theorem State.setH_str (x : BitVec 1) : (s.setH x).str = s.str := (rfl)
@[simp] theorem State.setH_frag (x : BitVec 1) : (s.setH x).frag = s.frag := (rfl)
@[simp] theorem State.setH_base (x : BitVec 1) : (s.setH x).base = s.base := (rfl)
@[simp] theorem State.setH_pending (x : BitVec 1) : (s.setH x).pending = s.pending := (rfl)
@[simp] theorem State.setH_replies (x : BitVec 1) : (s.setH x).replies = s.replies := (rfl)

@[simp] theorem State.setM_cmd (x : Stamp) : (s.setM x).cmd = s.cmd := (rfl)
@[simp] theorem State.setM_status (x : Stamp) : (s.setM x).status = s.status := (rfl)
@[simp] theorem State.setM_v (x : Stamp) : (s.setM x).v = s.v := (rfl)
@[simp] theorem State.setM_t (x : Stamp) : (s.setM x).t = s.t := (rfl)
@[simp] theorem State.setM_r (x : Stamp) : (s.setM x).r = s.r := (rfl)
@[simp] theorem State.setM_h (x : Stamp) : (s.setM x).h = s.h := (rfl)
@[simp] theorem State.setM_m (x : Stamp) : (s.setM x).m = x := (rfl)
@[simp] theorem State.setM_slen (x : Stamp) : (s.setM x).slen = s.slen := (rfl)
@[simp] theorem State.setM_str (x : Stamp) : (s.setM x).str = s.str := (rfl)
@[simp] theorem State.setM_frag (x : Stamp) : (s.setM x).frag = s.frag := (rfl)
@[simp] theorem State.setM_base (x : Stamp) : (s.setM x).base = s.base := (rfl)
@[simp] theorem State.setM_pending (x : Stamp) : (s.setM x).pending = s.pending := (rfl)
@[simp] theorem State.setM_replies (x : Stamp) : (s.setM x).replies = s.replies := (rfl)

@[simp] theorem State.setSlen_cmd (x : BitVec 8) : (s.setSlen x).cmd = s.cmd := (rfl)
@[simp] theorem State.setSlen_status (x : BitVec 8) : (s.setSlen x).status = s.status := (rfl)
@[simp] theorem State.setSlen_v (x : BitVec 8) : (s.setSlen x).v = s.v := (rfl)
@[simp] theorem State.setSlen_t (x : BitVec 8) : (s.setSlen x).t = s.t := (rfl)
@[simp] theorem State.setSlen_r (x : BitVec 8) : (s.setSlen x).r = s.r := (rfl)
@[simp] theorem State.setSlen_h (x : BitVec 8) : (s.setSlen x).h = s.h := (rfl)
@[simp] theorem State.setSlen_m (x : BitVec 8) : (s.setSlen x).m = s.m := (rfl)
@[simp] theorem State.setSlen_slen (x : BitVec 8) : (s.setSlen x).slen = x := (rfl)
@[simp] theorem State.setSlen_str (x : BitVec 8) : (s.setSlen x).str = s.str := (rfl)
@[simp] theorem State.setSlen_frag (x : BitVec 8) : (s.setSlen x).frag = s.frag := (rfl)
@[simp] theorem State.setSlen_base (x : BitVec 8) : (s.setSlen x).base = s.base := (rfl)
@[simp] theorem State.setSlen_pending (x : BitVec 8) : (s.setSlen x).pending = s.pending := (rfl)
@[simp] theorem State.setSlen_replies (x : BitVec 8) : (s.setSlen x).replies = s.replies := (rfl)

@[simp] theorem State.setStr_cmd (x : Vector Byte 16) : (s.setStr x).cmd = s.cmd := (rfl)
@[simp] theorem State.setStr_status (x : Vector Byte 16) : (s.setStr x).status = s.status := (rfl)
@[simp] theorem State.setStr_v (x : Vector Byte 16) : (s.setStr x).v = s.v := (rfl)
@[simp] theorem State.setStr_t (x : Vector Byte 16) : (s.setStr x).t = s.t := (rfl)
@[simp] theorem State.setStr_r (x : Vector Byte 16) : (s.setStr x).r = s.r := (rfl)
@[simp] theorem State.setStr_h (x : Vector Byte 16) : (s.setStr x).h = s.h := (rfl)
@[simp] theorem State.setStr_m (x : Vector Byte 16) : (s.setStr x).m = s.m := (rfl)
@[simp] theorem State.setStr_slen (x : Vector Byte 16) : (s.setStr x).slen = s.slen := (rfl)
@[simp] theorem State.setStr_str (x : Vector Byte 16) : (s.setStr x).str = x := (rfl)
@[simp] theorem State.setStr_frag (x : Vector Byte 16) : (s.setStr x).frag = s.frag := (rfl)
@[simp] theorem State.setStr_base (x : Vector Byte 16) : (s.setStr x).base = s.base := (rfl)
@[simp] theorem State.setStr_pending (x : Vector Byte 16) : (s.setStr x).pending = s.pending := (rfl)
@[simp] theorem State.setStr_replies (x : Vector Byte 16) : (s.setStr x).replies = s.replies := (rfl)

@[simp] theorem State.setFrag_cmd (x : Vector Byte 4) : (s.setFrag x).cmd = s.cmd := (rfl)
@[simp] theorem State.setFrag_status (x : Vector Byte 4) : (s.setFrag x).status = s.status := (rfl)
@[simp] theorem State.setFrag_v (x : Vector Byte 4) : (s.setFrag x).v = s.v := (rfl)
@[simp] theorem State.setFrag_t (x : Vector Byte 4) : (s.setFrag x).t = s.t := (rfl)
@[simp] theorem State.setFrag_r (x : Vector Byte 4) : (s.setFrag x).r = s.r := (rfl)
@[simp] theorem State.setFrag_h (x : Vector Byte 4) : (s.setFrag x).h = s.h := (rfl)
@[simp] theorem State.setFrag_m (x : Vector Byte 4) : (s.setFrag x).m = s.m := (rfl)
@[simp] theorem State.setFrag_slen (x : Vector Byte 4) : (s.setFrag x).slen = s.slen := (rfl)
@[simp] theorem State.setFrag_str (x : Vector Byte 4) : (s.setFrag x).str = s.str := (rfl)
@[simp] theorem State.setFrag_frag (x : Vector Byte 4) : (s.setFrag x).frag = x := (rfl)
@[simp] theorem State.setFrag_base (x : Vector Byte 4) : (s.setFrag x).base = s.base := (rfl)
@[simp] theorem State.setFrag_pending (x : Vector Byte 4) : (s.setFrag x).pending = s.pending := (rfl)
@[simp] theorem State.setFrag_replies (x : Vector Byte 4) : (s.setFrag x).replies = s.replies := (rfl)

@[simp] theorem State.setPending_cmd (es : List HostEvent) : (s.setPending es).cmd = s.cmd := (rfl)
@[simp] theorem State.setPending_status (es : List HostEvent) : (s.setPending es).status = s.status := (rfl)
@[simp] theorem State.setPending_v (es : List HostEvent) : (s.setPending es).v = s.v := (rfl)
@[simp] theorem State.setPending_t (es : List HostEvent) : (s.setPending es).t = s.t := (rfl)
@[simp] theorem State.setPending_r (es : List HostEvent) : (s.setPending es).r = s.r := (rfl)
@[simp] theorem State.setPending_h (es : List HostEvent) : (s.setPending es).h = s.h := (rfl)
@[simp] theorem State.setPending_m (es : List HostEvent) : (s.setPending es).m = s.m := (rfl)
@[simp] theorem State.setPending_slen (es : List HostEvent) : (s.setPending es).slen = s.slen := (rfl)
@[simp] theorem State.setPending_str (es : List HostEvent) : (s.setPending es).str = s.str := (rfl)
@[simp] theorem State.setPending_frag (es : List HostEvent) : (s.setPending es).frag = s.frag := (rfl)
@[simp] theorem State.setPending_base (es : List HostEvent) : (s.setPending es).base = s.base := (rfl)
@[simp] theorem State.setPending_pending (es : List HostEvent) : (s.setPending es).pending = es := (rfl)
@[simp] theorem State.setPending_replies (es : List HostEvent) : (s.setPending es).replies = s.replies := (rfl)

@[simp] theorem State.reply_cmd (w : Word) : (s.reply w).cmd = s.cmd := (rfl)
@[simp] theorem State.reply_status (w : Word) : (s.reply w).status = s.status := (rfl)
@[simp] theorem State.reply_v (w : Word) : (s.reply w).v = s.v := (rfl)
@[simp] theorem State.reply_t (w : Word) : (s.reply w).t = s.t := (rfl)
@[simp] theorem State.reply_r (w : Word) : (s.reply w).r = s.r := (rfl)
@[simp] theorem State.reply_h (w : Word) : (s.reply w).h = s.h := (rfl)
@[simp] theorem State.reply_m (w : Word) : (s.reply w).m = s.m := (rfl)
@[simp] theorem State.reply_slen (w : Word) : (s.reply w).slen = s.slen := (rfl)
@[simp] theorem State.reply_str (w : Word) : (s.reply w).str = s.str := (rfl)
@[simp] theorem State.reply_frag (w : Word) : (s.reply w).frag = s.frag := (rfl)
@[simp] theorem State.reply_base (w : Word) : (s.reply w).base = s.base := (rfl)
@[simp] theorem State.reply_pending (w : Word) : (s.reply w).pending = s.pending := (rfl)
@[simp] theorem State.reply_replies (w : Word) : (s.reply w).replies = s.replies ++ [w] := (rfl)

/-! How a command ends (60_exceptions.md R190, R193). -/

@[simp] theorem succeed_cmd : (succeed s).cmd = s.cmd := (rfl)
@[simp] theorem succeed_status : (succeed s).status = statusOk := (rfl)
@[simp] theorem succeed_v : (succeed s).v = s.v := (rfl)
@[simp] theorem succeed_t : (succeed s).t = s.t := (rfl)
@[simp] theorem succeed_r : (succeed s).r = s.r := (rfl)
@[simp] theorem succeed_h : (succeed s).h = s.h := (rfl)
@[simp] theorem succeed_m : (succeed s).m = s.m := (rfl)
@[simp] theorem succeed_slen : (succeed s).slen = s.slen := (rfl)
@[simp] theorem succeed_str : (succeed s).str = s.str := (rfl)
@[simp] theorem succeed_frag : (succeed s).frag = s.frag := (rfl)
@[simp] theorem succeed_base : (succeed s).base = s.base := (rfl)
@[simp] theorem succeed_pending : (succeed s).pending = s.pending := (rfl)
@[simp] theorem succeed_replies : (succeed s).replies = s.replies := (rfl)

@[simp] theorem raise_cmd (e : CommandError) : (raise e s).cmd = s.cmd := (rfl)
@[simp] theorem raise_status (e : CommandError) : (raise e s).status = statusOfError e := (rfl)
@[simp] theorem raise_v (e : CommandError) : (raise e s).v = s.v := (rfl)
@[simp] theorem raise_t (e : CommandError) : (raise e s).t = s.t := (rfl)
@[simp] theorem raise_r (e : CommandError) : (raise e s).r = s.r := (rfl)
@[simp] theorem raise_h (e : CommandError) : (raise e s).h = s.h := (rfl)
@[simp] theorem raise_m (e : CommandError) : (raise e s).m = s.m := (rfl)
@[simp] theorem raise_slen (e : CommandError) : (raise e s).slen = s.slen := (rfl)
@[simp] theorem raise_str (e : CommandError) : (raise e s).str = s.str := (rfl)
@[simp] theorem raise_frag (e : CommandError) : (raise e s).frag = s.frag := (rfl)
@[simp] theorem raise_base (e : CommandError) : (raise e s).base = s.base := (rfl)
@[simp] theorem raise_pending (e : CommandError) : (raise e s).pending = s.pending := (rfl)
@[simp] theorem raise_replies (e : CommandError) : (raise e s).replies = s.replies := (rfl)

/-! The string and field results of the commands (40_codec.md R110, 43_parser.md R171). -/

@[simp] theorem State.putString_cmd (out : List Byte) (k : Nat) : (s.putString out k).cmd = s.cmd := (rfl)
@[simp] theorem State.putString_status (out : List Byte) (k : Nat) : (s.putString out k).status = s.status := (rfl)
@[simp] theorem State.putString_v (out : List Byte) (k : Nat) : (s.putString out k).v = s.v := (rfl)
@[simp] theorem State.putString_t (out : List Byte) (k : Nat) : (s.putString out k).t = s.t := (rfl)
@[simp] theorem State.putString_r (out : List Byte) (k : Nat) : (s.putString out k).r = s.r := (rfl)
@[simp] theorem State.putString_h (out : List Byte) (k : Nat) : (s.putString out k).h = s.h := (rfl)
@[simp] theorem State.putString_m (out : List Byte) (k : Nat) : (s.putString out k).m = s.m := (rfl)
@[simp] theorem State.putString_slen (out : List Byte) (k : Nat) : (s.putString out k).slen = BitVec.ofNat 8 k := (rfl)
@[simp] theorem State.putString_str (out : List Byte) (k : Nat) : (s.putString out k).str = strBuffer out := (rfl)
@[simp] theorem State.putString_frag (out : List Byte) (k : Nat) : (s.putString out k).frag = s.frag := (rfl)
@[simp] theorem State.putString_base (out : List Byte) (k : Nat) : (s.putString out k).base = s.base := (rfl)
@[simp] theorem State.putString_pending (out : List Byte) (k : Nat) : (s.putString out k).pending = s.pending := (rfl)
@[simp] theorem State.putString_replies (out : List Byte) (k : Nat) : (s.putString out k).replies = s.replies := (rfl)

@[simp] theorem State.putFields_cmd (f : IdFields) : (s.putFields f).cmd = s.cmd := (rfl)
@[simp] theorem State.putFields_status (f : IdFields) : (s.putFields f).status = s.status := (rfl)
@[simp] theorem State.putFields_v (f : IdFields) : (s.putFields f).v = s.v := (rfl)
@[simp] theorem State.putFields_t (f : IdFields) : (s.putFields f).t = f.t := (rfl)
@[simp] theorem State.putFields_r (f : IdFields) : (s.putFields f).r = f.r := (rfl)
@[simp] theorem State.putFields_h (f : IdFields) : (s.putFields f).h = f.h := (rfl)
@[simp] theorem State.putFields_m (f : IdFields) : (s.putFields f).m = s.m := (rfl)
@[simp] theorem State.putFields_slen (f : IdFields) : (s.putFields f).slen = s.slen := (rfl)
@[simp] theorem State.putFields_str (f : IdFields) : (s.putFields f).str = s.str := (rfl)
@[simp] theorem State.putFields_frag (f : IdFields) : (s.putFields f).frag = s.frag := (rfl)
@[simp] theorem State.putFields_base (f : IdFields) : (s.putFields f).base = s.base := (rfl)
@[simp] theorem State.putFields_pending (f : IdFields) : (s.putFields f).pending = s.pending := (rfl)
@[simp] theorem State.putFields_replies (f : IdFields) : (s.putFields f).replies = s.replies := (rfl)

/-! The operands of PACK and GEN (42_generator.md R151). -/

@[simp] theorem State.fields_t : s.fields.t = s.t := (rfl)
@[simp] theorem State.fields_h : s.fields.h = s.h := (rfl)
@[simp] theorem State.fields_r : s.fields.r = s.r := (rfl)

/-! The reset input (70_reset_and_hazards.md R220, R222). -/

@[simp] theorem platformReset_cmd : (platformReset s).cmd = 0#32 := (rfl)
@[simp] theorem platformReset_status : (platformReset s).status = 0#8 := (rfl)
@[simp] theorem platformReset_v : (platformReset s).v = 0#66 := (rfl)
@[simp] theorem platformReset_t : (platformReset s).t = 0#42 := (rfl)
@[simp] theorem platformReset_r : (platformReset s).r = 0#23 := (rfl)
@[simp] theorem platformReset_h : (platformReset s).h = 0#1 := (rfl)
@[simp] theorem platformReset_m : (platformReset s).m = 0#42 := (rfl)
@[simp] theorem platformReset_slen : (platformReset s).slen = 0#8 := (rfl)
@[simp] theorem platformReset_str : (platformReset s).str = Vector.replicate 16 0#8 := (rfl)
@[simp] theorem platformReset_frag : (platformReset s).frag = Vector.replicate 4 0#8 := (rfl)
@[simp] theorem platformReset_base : (platformReset s).base = s.base := (rfl)
@[simp] theorem platformReset_pending : (platformReset s).pending = s.pending := (rfl)
@[simp] theorem platformReset_replies : (platformReset s).replies = s.replies := (rfl)

/-- Two states with the same value in every field are the same state. -/
theorem State.ext_fields {s t : State} (h1 : s.cmd = t.cmd) (h2 : s.status = t.status) (h3 : s.v = t.v) (h4 : s.t = t.t)
    (h5 : s.r = t.r) (h6 : s.h = t.h) (h7 : s.m = t.m) (h8 : s.slen = t.slen) (h9 : s.str = t.str)
    (h10 : s.frag = t.frag) (h11 : s.base = t.base) (h12 : s.pending = t.pending) (h13 : s.replies = t.replies) :
    s = t := by
  cases s
  cases t
  simp_all

end Sys2Proof.Machine
end

