-- ==== Sys2Proof/Laws/Ops.lean ====
section
/-! SUPPORT. What each shared operation can do, said once. -/

namespace Sys2Proof.Machine

/-! ### STATUS -/

@[simp] theorem statusOk_eq : statusOk = 0#8 := (rfl)

@[simp] theorem statusOfError_invalidLength : statusOfError .invalidLength = 1#8 := (rfl)

@[simp] theorem statusOfError_illegalCommand : statusOfError .illegalCommand = 3#8 := (rfl)

theorem statusBits_toNat (i : BitVec 4) (e : BitVec 2) : (statusBits i e).toNat = i.toNat * 16 + e.toNat := by
  have h : (statusBits i e).toNat = (i ++ 0#2).toNat * 2 ^ 2 + e.toNat := Bits.append_toNat _ _
  rw [h, Bits.append_toNat]
  simp
  ring

theorem statusOfError_invalidCharacter (j : Nat) :
    statusOfError (.invalidCharacter j) = BitVec.ofNat 8 (16 * j + 2) := by
  apply BitVec.eq_of_toNat_eq
  rw [statusOfError, statusBits_toNat]
  simp
  omega

/-! ### How a command ends -/

@[simp] theorem finish_ok {α : Type} (a : α) (s : State) (f : α → State) : finish (.ok a) s f = succeed (f a) := (rfl)

@[simp] theorem finish_error {α : Type} (e : CommandError) (s : State) (f : α → State) :
    finish (.error e) s f = raise e s := (rfl)

/-- All that `finish` can do: success with a result, or an error with only STATUS written (60_exceptions.md R193). -/
theorem finish_cases {α : Type} (x : Except CommandError α) (s : State) (f : α → State) :
    (∃ a, x = .ok a ∧ finish x s f = succeed (f a)) ∨ (∃ e, x = .error e ∧ finish x s f = raise e s) := by
  cases x
  case ok a => exact .inl ⟨a, rfl, rfl⟩
  case error e => exact .inr ⟨e, rfl, rfl⟩

theorem succeed_eq (s : State) : succeed s = { s with status := 0#8 } := rfl

theorem raise_eq (e : CommandError) (s : State) : raise e s = { s with status := statusOfError e } := rfl

/-! ### Buffers -/

/-- `strBuffer` holds character i of the string, 0x00 past its end (40_codec.md R110). -/
theorem strBuffer_getElem (out : List Byte) (j : Fin 16) : (strBuffer out)[j] = out.getD j.val 0#8 := by
  fin_cases j <;> rfl

theorem fragBuffer_getElem (out : List Byte) (j : Fin 4) : (fragBuffer out)[j] = out.getD j.val 0#8 := by
  fin_cases j <;> rfl

theorem strBuffer_toList (out : List Byte) :
    (strBuffer out).toList = (List.range 16).map fun i => out.getD i 0#8 := rfl

theorem fragBuffer_toList (out : List Byte) :
    (fragBuffer out).toList = (List.range 4).map fun i => out.getD i 0#8 := rfl

@[simp] theorem State.chars_length (s : State) : s.chars.length = 16 := by
  simp [State.chars]

theorem State.chars_getD (s : State) (j : Fin 16) : s.chars.getD j.val 0#8 = s.str[j] := by
  simp [State.chars, List.getD_eq_getElem?_getD]

end Sys2Proof.Machine
end

