-- ==== Sys2Proof/Laws/Codec.lean ====
section
/-! SUPPORT. The codec's groups as arithmetic on natural numbers, the length of an encoded string, and all that the two
loops can answer (40_codec.md R100 to R102). -/

namespace Sys2Proof.Machine

theorem groupWidth_pos {rem : Nat} (h : 1 ≤ rem) : 1 ≤ groupWidth rem := by
  unfold groupWidth
  omega

theorem groupWidth_le (rem : Nat) : groupWidth rem ≤ 6 ∧ groupWidth rem ≤ rem := by
  unfold groupWidth
  omega

theorem groupWidth_cases {rem : Nat} (h : 1 ≤ rem) :
    min 6 rem = 1 ∨ min 6 rem = 2 ∨ min 6 rem = 3 ∨ min 6 rem = 4 ∨ min 6 rem = 5 ∨ min 6 rem = 6 := by
  omega

/-- The bits of one group, before it is moved to the high end of its slot. -/
theorem group_toNat (v : Value) (low w : Nat) (hw : w ≤ 6) :
    (((v >>> low) &&& BitVec.ofNat 66 (2 ^ w - 1)).setWidth 6).toNat = v.toNat / 2 ^ low % 2 ^ w := by
  have hp : 2 ^ w ≤ 2 ^ 6 := Nat.pow_le_pow_right (by decide) hw
  have hmask : (2 ^ w - 1) % 2 ^ 66 = 2 ^ w - 1 := Nat.mod_eq_of_lt (by omega)
  have hlt := Nat.mod_lt (v.toNat / 2 ^ low) (Nat.two_pow_pos w)
  simp only [BitVec.toNat_setWidth, BitVec.toNat_and, BitVec.toNat_ofNat, hmask, BitVec.toNat_ushiftRight,
    Nat.shiftRight_eq_div_pow, Nat.and_two_pow_sub_one_eq_mod]
  exact Nat.mod_eq_of_lt (by omega)

/-- The index `encodeBits` looks up for the group that starts with `rem` bits to process (40_codec.md R100, R101). -/
theorem encodeGroup_toNat (v : Value) (rem : Nat) (h : 1 ≤ rem) :
    (encodeGroup v rem).toNat = v.toNat / 2 ^ (rem - min 6 rem) % 2 ^ min 6 rem * 2 ^ (6 - min 6 rem) := by
  have k := group_toNat v (rem - min 6 rem) (min 6 rem) (by omega)
  unfold encodeGroup groupWidth
  rcases groupWidth_cases h with h | h | h | h | h | h <;> rw [h] at k ⊢ <;>
    simp [Nat.shiftLeft_eq, -BitVec.toNat_setWidth] at k ⊢ <;> rw [k] <;> omega

/-- The value bits `decodeBits` takes from an index (40_codec.md R102). -/
theorem decodeGroup_toNat (idx : Index) (rem : Nat) (h : 1 ≤ rem) :
    (decodeGroup idx rem).toNat = idx.toNat / 2 ^ (6 - min 6 rem) := by
  unfold decodeGroup groupWidth
  rcases groupWidth_cases h with h | h | h | h | h | h <;> rw [h] <;> simp [Nat.shiftRight_eq_div_pow]

theorem encodeGroups_length (v : Value) (k rem : Nat) : (encodeGroups v k rem).length = k := by
  induction k generalizing rem with
  | zero => rfl
  | succ k ih => simp [encodeGroups, ih]

/-- The length of an encoded string (40_codec.md R101). -/
@[simp] theorem encodeBits_length (v : Value) (n : Nat) : (encodeBits v n).length = charCount n :=
  encodeGroups_length v _ n

/-- Character j of the loop's result is the group that starts with `rem - 6j` bits to process. -/
theorem encodeGroups_getElem? (v : Value) (k rem j : Nat) (hj : j < k) (hk : k = charCount rem) :
    (encodeGroups v k rem)[j]? = some (alpha (encodeGroup v (rem - 6 * j))) := by
  unfold charCount at hk
  induction k generalizing rem j with
  | zero => omega
  | succ k ih =>
    cases j with
    | zero => simp [encodeGroups]
    | succ j =>
      have hw : groupWidth rem = 6 := by
        unfold groupWidth
        omega
      simp only [encodeGroups, List.getElem?_cons_succ, hw]
      rw [ih (rem - 6) j (by omega) (by omega)]
      congr 3
      omega

/-- `decodeBits` reads only the first `ceil(n/6)` bytes (40_codec.md R102). -/
theorem decodeBits_take (cs : List Byte) (len n : Nat) :
    decodeBits cs len n = decodeBits (cs.take (charCount n)) len n := by
  unfold decodeBits
  rw [List.take_take, Nat.min_self]

/-- The only error of the loop, with the range of its index. -/
theorem decodeGroups_eq_error {cs : List Byte} {m rem : Nat} {acc : Value} {e : CommandError}
    (h : decodeGroups cs m rem acc = .error e) : ∃ j, m ≤ j ∧ j < m + cs.length ∧ e = .invalidCharacter j := by
  induction cs generalizing m rem acc with
  | nil => cases h
  | cons c cs ih =>
    simp only [decodeGroups] at h
    split at h
    · cases h
      exact ⟨m, le_refl m, by simp, rfl⟩
    · obtain ⟨j, h1, h2, h3⟩ := ih h
      exact ⟨j, by omega, by simp; omega, h3⟩

/-- All the errors `decodeBits` can answer (40_codec.md R102, R108). -/
theorem decodeBits_eq_error {cs : List Byte} {len n : Nat} {e : CommandError} (h : decodeBits cs len n = .error e) :
    e = .invalidLength ∨ ∃ j, j < charCount n ∧ e = .invalidCharacter j := by
  unfold decodeBits at h
  split at h
  · obtain ⟨j, -, h2, h3⟩ := decodeGroups_eq_error h
    simp only [List.length_take] at h2
    exact .inr ⟨j, by omega, h3⟩
  · cases h
    exact .inl rfl

theorem decodeBits_of_wrong_length (cs : List Byte) {len n : Nat} (h : len ≠ charCount n) :
    decodeBits cs len n = .error .invalidLength := if_neg h

end Sys2Proof.Machine
end

