-- ==== Sys2Proof/Laws/Mixer.lean ====
section
/-! SUPPORT. The block's mixer with its parameters written out, and what STRETCH does. A mask is never to be unfolded by the
kernel's comparison of states: its multiplications by 64-bit constants do not end. Cite `stretch_eq`. -/

namespace Sys2Proof.Machine

/-- The block's mixer as 41_mixer.md R130 writes it, on 64 bits. -/
theorem stretch_eq (r : Rnd) :
    stretch r =
      (mixRound (w := 64) 15 none
        (mixRound (w := 64) 12 (some 0xbf58476d1ce4e5b9)
          (mixRound (w := 64) 13 (some 0x9e3779b97f4a7c15) (r.setWidth 64)))).setWidth 42 := rfl

theorem mixRound_none {w : Nat} (k : Nat) (x : BitVec w) : mixRound k none x = x ^^^ (x >>> k) := rfl

theorem mixRound_some {w : Nat} (k c : Nat) (x : BitVec w) :
    mixRound k (some c) x = (x ^^^ (x >>> k)) * BitVec.ofNat w c := rfl

/-- A round with a constant as arithmetic on natural numbers. -/
theorem mixRound_some_toNat {w : Nat} (k c : Nat) (x : BitVec w) :
    (mixRound k (some c) x).toNat = (x.toNat ^^^ (x.toNat / 2 ^ k)) * c % 2 ^ w := by
  rw [mixRound_some, BitVec.toNat_mul, BitVec.toNat_xor, BitVec.toNat_ushiftRight, BitVec.toNat_ofNat,
    Nat.mul_mod_mod, Nat.shiftRight_eq_div_pow]

theorem mixRound_none_toNat {w : Nat} (k : Nat) (x : BitVec w) :
    (mixRound k none x).toNat = x.toNat ^^^ (x.toNat / 2 ^ k) := by
  rw [mixRound_none, BitVec.toNat_xor, BitVec.toNat_ushiftRight, Nat.shiftRight_eq_div_pow]

/-- All that STRETCH does (41_mixer.md R131). -/
theorem execStretch_eq (s : State) : execStretch s = .next (succeed (s.setM (stretch s.r))) := rfl

end Sys2Proof.Machine
end

