-- ==== Sys2Proof/Laws/Commands.lean ====
section
/-! SUPPORT. What each command's meaning answers, over the shared operations (30_encoding.md R72). -/

namespace Sys2Proof.Machine

theorem execNop_eq (s : State) : execNop s = .next (succeed s) := rfl

theorem execEnc_of_ok {n : BitCount} (s : State) (h : BitCountOk n) :
    execEnc n s = .next (succeed (s.putString (encodeBits s.v n.toNat) (charCount n.toNat))) := if_pos h

theorem execDec_of_ok {n : BitCount} (s : State) (h : BitCountOk n) :
    execDec n s = .next (finish (decodeBits s.chars s.slen.toNat n.toNat) s fun x => s.setV x) := if_pos h

theorem execPack_eq (s : State) : execPack s = .next (succeed (s.setV (pack s.fields))) := rfl

theorem execGen_eq (s : State) :
    execGen s = .next (succeed ((s.setV (pack s.fields)).putString (encodeBits (pack s.fields) 66) 11)) := rfl

theorem execUnpack_eq (s : State) : execUnpack s = .next (succeed (s.putFields (unpack s.v))) := rfl

/-- All that PARSE can do: its five results, or an error with only STATUS written (43_parser.md R172). -/
theorem execParse_cases (s : State) :
    (∃ x, decodeBits s.chars s.slen.toNat 66 = .ok x ∧
      execParse s = .next (succeed (((s.setV x).putFields (unpack x)).setFrag (fragmentOf (unpack x).r)))) ∨
    (∃ e, decodeBits s.chars s.slen.toNat 66 = .error e ∧ execParse s = .next (raise e s)) := by
  unfold execParse
  rcases finish_cases (decodeBits s.chars s.slen.toNat 66) s
    (fun x => ((s.setV x).putFields (unpack x)).setFrag (fragmentOf (unpack x).r)) with ⟨x, hx, hf⟩ | ⟨e, he, hf⟩
  · exact .inl ⟨x, hx, congrArg _ hf⟩
  · exact .inr ⟨e, he, congrArg _ hf⟩

end Sys2Proof.Machine
end

