-- ==== Sys2Proof/Laws/Decode.lean ====
section
/-! SUPPORT. The command word's fields as numbers, and what the decoder's parts can answer. -/

namespace Sys2Proof

theorem opField_toNat (w : Word) : (opField w).toNat = w.toNat % 16 := by
  rw [opField, Bits.extract_toNat, Nat.pow_zero, Nat.div_one]
  norm_num

theorem nField_toNat (w : Word) : (nField w).toNat = w.toNat / 16 % 128 := by
  rw [nField, Bits.extract_toNat]
  norm_num

theorem rsvField_toNat (w : Word) : (rsvField w).toNat = w.toNat / 2048 := by
  have := w.isLt
  simp only [rsvField, Bits.extract_toNat]
  omega

theorem rsvField_eq_zero_iff (w : Word) : rsvField w = 0#21 ↔ w.toNat / 2048 = 0 := by
  rw [← rsvField_toNat, ← BitVec.toNat_inj]
  simp

/-- The encoded word as a number: `(n << 4) | OP` (30_encoding.md R75). -/
theorem encode_toNat (i : Instr) : (encode i).toNat = (bitCountOf i).toNat * 16 + (opcodeOf i).toNat := by
  have h : (encode i).toNat = (0#21 ++ bitCountOf i).toNat * 2 ^ 4 + (opcodeOf i).toNat := Bits.append_toNat _ _
  rw [h, Bits.append_toNat]
  simp

/-- All that `decodePlain` can answer. -/
theorem decodePlain_eq_ok {n : BitCount} {i j : Instr} : decodePlain n i = .ok j ↔ n = 0#7 ∧ i = j := by
  unfold decodePlain
  split <;> simp_all

/-- All that `decodeCounted` can answer. -/
theorem decodeCounted_eq_ok {n : BitCount} {i j : Instr} : decodeCounted n i = .ok j ↔ BitCountOk n ∧ i = j := by
  unfold decodeCounted
  split
  · rename_i hn
    exact Iff.intro (fun h => And.intro hn (Except.ok.inj h)) (fun h => congrArg Except.ok h.2)
  · rename_i hn
    exact Iff.intro (fun h => nomatch h) (fun h => absurd h.1 hn)

/-- All that the opcode map can answer: a row of the table of 30_encoding.md R72 and that row's condition on N (R73). -/
theorem decodeOp_eq_ok {op : BitVec 4} {n : BitCount} {i : Instr} (h : decodeOp op n = .ok i) :
    (op.toNat = 0 ∧ n = 0#7 ∧ i = .nop) ∨ (op.toNat = 1 ∧ BitCountOk n ∧ i = .enc n) ∨
    (op.toNat = 2 ∧ BitCountOk n ∧ i = .dec n) ∨ (op.toNat = 3 ∧ n = 0#7 ∧ i = .stretch) ∨
    (op.toNat = 4 ∧ n = 0#7 ∧ i = .pack) ∨ (op.toNat = 5 ∧ n = 0#7 ∧ i = .unpack) ∨
    (op.toNat = 6 ∧ n = 0#7 ∧ i = .gen) ∨ (op.toNat = 7 ∧ n = 0#7 ∧ i = .parse) := by
  unfold decodeOp at h
  split at h
  case h_9 => cases h
  all_goals rename_i hop
  · exact .inl ⟨hop, (decodePlain_eq_ok.1 h).1, (decodePlain_eq_ok.1 h).2.symm⟩
  · exact .inr (.inl ⟨hop, (decodeCounted_eq_ok.1 h).1, (decodeCounted_eq_ok.1 h).2.symm⟩)
  · exact .inr (.inr (.inl ⟨hop, (decodeCounted_eq_ok.1 h).1, (decodeCounted_eq_ok.1 h).2.symm⟩))
  all_goals
    obtain ⟨hn, rfl⟩ := decodePlain_eq_ok.1 h
    simp [hop, hn]

/-- A decoded word has no reserved bit set, and its fields decode. -/
theorem decode_eq_ok {w : Word} {i : Instr} :
    decode w = .ok i ↔ rsvField w = 0#21 ∧ decodeOp (opField w) (nField w) = .ok i := by
  unfold decode
  split <;> simp_all

end Sys2Proof
end

