-- ==== Sys2Proof/Laws/HostPort.lean ====
section
/-! SUPPORT. What one step does with each event of the host port, said once (20_memory.md R56 to R61). -/

namespace Sys2Proof.Machine

theorem windowOffset_base_add (b off : Nat) (h : off < 256) : windowOffset b (b + off) = some off := by
  simp [windowOffset, Config.windowBytes, h]

theorem windowOffset_eq_some {b a off : Nat} : windowOffset b a = some off ↔ a = b + off ∧ off < 256 := by
  unfold windowOffset Config.windowBytes
  split
  · simp only [Option.some.injEq]
    omega
  · simp only [reduceCtorEq, false_iff]
    omega

theorem windowOffset_eq_none {b a : Nat} : windowOffset b a = none ↔ a < b ∨ b + 256 ≤ a := by
  unfold windowOffset Config.windowBytes
  split
  · simp only [reduceCtorEq, false_iff]
    omega
  · simp only [true_iff]
    omega

/-- A 32-bit access that reaches the block: everything `atOffset` can do (20_memory.md R50, R56). -/
theorem atOffset_cases (s : State) (a : Nat) (k : Nat → Host.Outcome State Fault Refusal) :
    ((a < s.base ∨ s.base + 256 ≤ a) ∧ atOffset s a k = .fault .outsideWindow) ∨
    (∃ off, a = s.base + off ∧ off < 256 ∧ off % 4 ≠ 0 ∧ atOffset s a k = .refused .misalignedAccess) ∨
    (∃ off, a = s.base + off ∧ off < 256 ∧ off % 4 = 0 ∧ atOffset s a k = k off) := by
  unfold atOffset
  rcases h : windowOffset s.base a with _ | off
  · exact .inl ⟨windowOffset_eq_none.1 h, rfl⟩
  · obtain ⟨h1, h2⟩ := windowOffset_eq_some.1 h
    by_cases h4 : off % 4 = 0
    · exact .inr (.inr ⟨off, h1, h2, h4, if_pos h4⟩)
    · exact .inr (.inl ⟨off, h1, h2, h4, if_neg h4⟩)

theorem step_cons {s : State} {e : HostEvent} {rest : List HostEvent} (h : s.pending = e :: rest) :
    step s = perform (s.setPending rest) e := by
  simp [step, performNext, h]

theorem step_of_write_cmd {s : State} {w : Word} {rest : List HostEvent}
    (h : s.pending = .write s.base w :: rest) : step s = runCommand ((s.setPending rest).setCmd w) := by
  have h0 : windowOffset s.base s.base = some 0 := windowOffset_base_add s.base 0 (by decide)
  simp [step_cons h, perform, atOffset, h0, hostWrite, windowReg, writeWord, writeReg]

/-- A write at an offset other than CMD's only writes the word. -/
theorem hostWrite_of_ne_zero (s : State) {off : Nat} (w : Word) (h : off ≠ 0) :
    hostWrite s off w = .next (writeWord s off w) := by
  unfold hostWrite
  split
  · rename_i hc
    exfalso
    unfold windowReg at hc
    split at hc <;> simp_all
    split at hc <;> simp_all
  · rfl

/-- A run of one step more, from the state that step gives. -/
theorem core_run_of_next {s t : State} (k : Nat) (h : step s = .next t) :
    Host.Core.run Sys2Proof.core (k + 1) s = Host.Core.run Sys2Proof.core k t := by
  simp only [Host.Core.run, Sys2Proof.core, h]

end Sys2Proof.Machine
end

