-- ==== Sys2Proof/Laws/PerInstr.lean ====
section
/-! SUPPORT. What holds of every command as syntax, one lemma per constructor. -/

namespace Sys2Proof.Laws.EncodedFields

/-- The three fields of a command's word are its row of 30_encoding.md R72: RSV 0, its bit count, its OP. -/
def Statement (i : Instr) : Prop :=
  rsvField (encode i) = 0#21 ∧ nField (encode i) = bitCountOf i ∧ opField (encode i) = opcodeOf i

theorem of_encode (i : Instr) : Statement i := by
  have h := encode_toNat i
  have h1 := (bitCountOf i).isLt
  have h2 := (opcodeOf i).isLt
  refine ⟨?_, BitVec.eq_of_toNat_eq ?_, BitVec.eq_of_toNat_eq ?_⟩
  · rw [rsvField_eq_zero_iff]
    omega
  · rw [nField_toNat]
    omega
  · rw [opField_toNat]
    omega

theorem nop : Statement .nop := of_encode _
theorem enc (n : BitCount) : Statement (.enc n) := of_encode _
theorem dec (n : BitCount) : Statement (.dec n) := of_encode _
theorem stretch : Statement .stretch := of_encode _
theorem pack : Statement .pack := of_encode _
theorem unpack : Statement .unpack := of_encode _
theorem gen : Statement .gen := of_encode _
theorem parse : Statement .parse := of_encode _

end Sys2Proof.Laws.EncodedFields
end

