-- ==== Sys2Proof/Laws/Window.lean ====
section
/-! SUPPORT. Words of four bytes as numbers, which offsets are which words, and what no read depends on
(20_memory.md R52 to R54). -/

namespace Sys2Proof.Machine

theorem wordOfBytes_toNat (b0 b1 b2 b3 : Byte) :
    (wordOfBytes b0 b1 b2 b3).toNat = b3.toNat * 2 ^ 24 + b2.toNat * 2 ^ 16 + b1.toNat * 2 ^ 8 + b0.toNat := by
  have h1 : (wordOfBytes b0 b1 b2 b3).toNat = (b3 ++ b2 ++ b1).toNat * 2 ^ 8 + b0.toNat := Bits.append_toNat _ _
  have h2 : (b3 ++ b2 ++ b1).toNat = (b3 ++ b2).toNat * 2 ^ 8 + b1.toNat := Bits.append_toNat _ _
  rw [h1, h2, Bits.append_toNat]
  ring

theorem byteOfWord_toNat (w : Word) (i : Nat) : (byteOfWord w i).toNat = w.toNat / 2 ^ (8 * i) % 256 := by
  simp only [byteOfWord, Bits.extract_toNat]
  norm_num

/-- CMD stands at offset 0 only. -/
theorem windowReg_eq_cmd {off : Nat} : windowReg off = .cmd ↔ off = 0 := by
  constructor
  · intro h
    unfold windowReg at h
    split at h <;> simp_all
    split at h <;> simp_all
  · rintro rfl
    rfl

/-- STATUS stands at offset 4 only. -/
theorem windowReg_eq_status {off : Nat} : windowReg off = .status ↔ off = 4 := by
  constructor
  · intro h
    unfold windowReg at h
    split at h <;> simp_all
    split at h <;> simp_all
  · rintro rfl
    rfl

/-- No read depends on the events still to perform. -/
@[simp] theorem readWord_setPending (s : State) (es : List HostEvent) (off : Nat) :
    readWord (s.setPending es) off = readWord s off := by
  unfold readWord
  cases windowReg off <;> rfl

/-- No read depends on what CMD holds (20_memory.md R52: CMD reads 0). -/
@[simp] theorem readWord_setCmd (s : State) (w : Word) (off : Nat) : readWord (s.setCmd w) off = readWord s off := by
  unfold readWord
  cases windowReg off <;> rfl

/-- A write commutes with taking events off the queue. -/
theorem writeReg_setPending (s : State) (w : Word) (x : WindowReg) (es : List HostEvent) :
    writeReg (s.setPending es) w x = (writeReg s w x).setPending es := by
  cases x <;> rfl

/-- All the registers a write of a word other than CMD can change (20_memory.md R52). -/
theorem writeWord_frame (s : State) {off : Nat} (w : Word) (h : off ≠ 0) :
    ∃ v t r k n c, writeWord s off w = { s with v := v, t := t, r := r, h := k, slen := n, str := c } := by
  have hc : windowReg off ≠ .cmd := fun hc => h (windowReg_eq_cmd.1 hc)
  unfold writeWord
  generalize windowReg off = x at *
  cases x <;> first | exact ⟨_, _, _, _, _, _, rfl⟩ | exact absurd rfl hc

end Sys2Proof.Machine
end

