-- ==== Sys2Proof/Tests/Slice0.lean ====
section
/-! SUPPORT. Tests on fixed values, each from spec/ (the section is named at each group), and the witnesses: a state and
operands that meet every hypothesis of each statement, at the boundary values of each clause. -/

namespace Sys2Proof.Tests
open Sys2Proof.Machine Sys2Proof.Machine.Claims

/-! ### Helpers -/

/-- The state after reset with these events to perform. -/
def pendingState (es : List HostEvent) : State := State.reset.setPending es

/-- The state after reset with a string in STR and SLEN. -/
def stringState (cs : List Byte) (k : Nat) : State := State.reset.putString cs k

/-- The state after reset with these fields in T, H and R. -/
def fieldState (t : Stamp) (h : BitVec 1) (r : Rnd) : State := State.reset.putFields ⟨t, h, r⟩

/-- An outcome is a next state for which `p` holds. -/
def nextSatisfies (o : Host.Outcome State Fault Refusal) (p : State → Bool) : Bool :=
  match o with
  | .next t => p t
  | .fault _ => false
  | .refused _ => false

/-- ASCII codes of a string. -/
def ascii (x : String) : List Byte := x.toList.map fun c => BitVec.ofNat 8 c.toNat

/-! ### WellFormed: one ill-formed term for each check (30_encoding.md R73) -/

theorem smoke_enc_zero : wellFormed (.enc 0#7) = false := by decide
theorem smoke_enc_sixtyseven : wellFormed (.enc 67#7) = false := by decide
theorem smoke_dec_zero : wellFormed (.dec 0#7) = false := by decide
theorem smoke_dec_sixtyseven : wellFormed (.dec 67#7) = false := by decide

/-! ### Decoding: words written out bit by bit, RSV, N, OP (30_encoding.md R70, R72, R76, R77) -/

theorem test_decode_nop : decode 0b000000000000000000000_0000000_0000#32 = .ok .nop := by decide
theorem test_decode_enc66 : decode 0b000000000000000000000_1000010_0001#32 = .ok (.enc 66#7) := by decide
theorem test_decode_enc1 : decode 0b000000000000000000000_0000001_0001#32 = .ok (.enc 1#7) := by decide
theorem test_decode_dec23 : decode 0b000000000000000000000_0010111_0010#32 = .ok (.dec 23#7) := by decide
theorem test_decode_stretch : decode 0b000000000000000000000_0000000_0011#32 = .ok .stretch := by decide
theorem test_decode_pack : decode 0b000000000000000000000_0000000_0100#32 = .ok .pack := by decide
theorem test_decode_unpack : decode 0b000000000000000000000_0000000_0101#32 = .ok .unpack := by decide
theorem test_decode_gen : decode 0b000000000000000000000_0000000_0110#32 = .ok .gen := by decide
theorem test_decode_parse : decode 0b000000000000000000000_0000000_0111#32 = .ok .parse := by decide

/-- 95_test_vectors.md section 2.6: DEC with N = 127, GEN with RSV bit 11 set. -/
theorem test_decode_illegal :
    decode 0x000007F2#32 = .error .bitCountOutOfRange ∧ decode 0x00000806#32 = .error .reservedBits := by decide

/-- 30_encoding.md R76: the pseudo-commands' words. -/
theorem test_assemble_pseudo :
    assemble .enc66 = some 0x421#32 ∧ assemble .dec66 = some 0x422#32 ∧ assemble .enc23 = some 0x171#32 ∧
      assemble .dec23 = some 0x172#32 ∧ assemble .clrStatus = some 0#32 := by decide

theorem test_decodeTableWord : decodeTableWord 32 0x422 = some (.dec 66#7) ∧ decodeTableWord 32 0x8 = none := by decide

/-- The interface's word is the next command: GEN right after reset writes `AAAAAAAAAAA` (70_reset_and_hazards.md R223). -/
theorem test_withFetchWord :
    nextSatisfies (step (State.reset.withFetchWord 32 6))
      (fun t => decide (t.slen = 11#8 ∧ t.str[10] = 0x41#8 ∧ t.str[11] = 0#8)) = true := by decide

/-! ### One step of each command (95_test_vectors.md section 2; 60_exceptions.md R200) -/

theorem test_nop_clears : nextSatisfies (exec .nop (State.reset.setStatus 0x32#8))
    (fun t => decide (t.status = 0#8)) = true := by decide

theorem test_enc66 : nextSatisfies (exec (.enc 66#7) (State.reset.setV 0x123456789ABCDEF01#66))
    (fun t => decide (t.chars.take 11 = ascii "SNFZ4mrze8B" ∧ t.slen = 11#8)) = true := by decide +kernel

theorem test_enc7_pads : nextSatisfies (exec (.enc 7#7) (State.reset.setV 0x3FFFFFFFFFFFFFFFF#66))
    (fun t => decide (t.chars.take 3 = ascii "_g" ++ [0#8] ∧ t.slen = 2#8)) = true := by decide +kernel

theorem test_dec23_discards_padding : nextSatisfies (exec (.dec 23#7) (stringState (ascii "AAA_") 4))
    (fun t => decide (t.v = 0x1F#66 ∧ t.status = 0#8)) = true := by decide +kernel

theorem test_dec66_first_bad : nextSatisfies (exec (.dec 66#7) ((stringState (ascii "AAA!AAA!AAA") 11).setV 7#66))
    (fun t => decide (t.v = 7#66 ∧ t.status = 0x32#8)) = true := by decide +kernel

theorem test_stretch_one : nextSatisfies (exec .stretch (State.reset.setR 1#23))
    (fun t => decide (t.m = 0x2ABED76896C#42)) = true := by decide +kernel

theorem test_stretch_max : nextSatisfies (exec .stretch (State.reset.setR 0x7FFFFF#23))
    (fun t => decide (t.m = 0x35918F7FB7D#42)) = true := by decide +kernel

theorem test_pack_plain : nextSatisfies (exec .pack (fieldState 0x18BCFE56800#42 0#1 0x123456#23))
    (fun t => decide (t.v = 0x18BCFE56800123456#66)) = true := by decide +kernel

theorem test_pack_hidden : nextSatisfies (exec .pack (fieldState 0x18BCFE56800#42 1#1 1#23))
    (fun t => decide (t.v = 0x3202293E16C800001#66)) = true := by decide +kernel

theorem test_unpack_hidden : nextSatisfies (exec .unpack (State.reset.setV 0x141748274C9923456#66))
    (fun t => decide (t.t = 0x18BCFE56800#42 ∧ t.h = 1#1 ∧ t.r = 0x123456#23)) = true := by decide +kernel

theorem test_gen_plain : nextSatisfies (exec .gen (fieldState 0x18BCFE56800#42 0#1 0#23))
    (fun t => decide (t.chars.take 11 = ascii "YvP5WgAAAAA")) = true := by decide +kernel

theorem test_gen_hidden : nextSatisfies (exec .gen (fieldState 0x3FFFFFFFFFF#42 1#1 0x7FFFFF#23))
    (fun t => decide (t.chars.take 11 = ascii "KbnCASC____")) = true := by decide +kernel

theorem test_parse_hidden : nextSatisfies (exec .parse (stringState (ascii "UF0gnTJkjRW") 11))
    (fun t => decide (t.t = 0x18BCFE56800#42 ∧ t.h = 1#1 ∧ t.r = 0x123456#23 ∧ t.frag.toList = ascii "JGis")) = true := by
  decide +kernel

theorem test_parse_bad_last : nextSatisfies (exec .parse (stringState (ascii "AAAAAAAAAA!") 11))
    (fun t => decide (t.status = 0xA2#8 ∧ t.frag.toList = [0#8, 0#8, 0#8, 0#8])) = true := by decide +kernel

/-! ### The window (95_test_vectors.md section 2.6) -/

theorem test_write_tHi : nextSatisfies (step (pendingState [.write 0x18 0xFFFFF18B#32]))
    (fun t => decide (t.t = 0x18B00000000#42 ∧ readWord t 0x18 = 0x18B#32)) = true := by decide

theorem test_write_vHi : nextSatisfies (step (pendingState [.write 0x10 0xFFFFFFFF#32]))
    (fun t => decide (t.v = 0x30000000000000000#66)) = true := by decide

theorem test_read_alpha : readWord State.reset 0x80 = 0x44434241#32 ∧ readWord State.reset 0xBC = 0x5F2D3938#32 := by
  decide

theorem test_illegal_word : nextSatisfies (step (pendingState [.write 0 0x00000437#32]))
    (fun t => decide (t.status = 3#8 ∧ t.cmd = 0#32)) = true := by decide

/-! ### Witnesses: hypotheses that something meets -/

/-- DEC and PARSE can succeed: eleven `A`. -/
theorem witness_valid_identifier :
    (stringState (ascii "AAAAAAAAAAA") 11).slen = 11#8 ∧ ValidString (stringState (ascii "AAAAAAAAAAA") 11) 11 := by
  decide +kernel

theorem witness_DecodeOfEncodeIsIdentity :
    WellFormed .nop ∧ WellFormed (.enc 1#7) ∧ WellFormed (.enc 66#7) ∧ WellFormed (.dec 1#7) ∧ WellFormed (.dec 66#7) := by
  decide

theorem witness_DecodedWordIsItsOnlyEncoding : decode 0x00000421#32 = .ok (.enc 66#7) := by decide

theorem witness_IllegalWordOnlyRaisesIllegalCommand :
    (pendingState [.write 0 0x00000431#32]).pending = .write State.reset.base 0x00000431#32 :: [] ∧
      (pendingState []).cmd = 0#32 ∧ ¬ LegalWord 0x00000431#32 ∧ ¬ LegalWord 0x00000001#32 ∧ ¬ LegalWord 0x00000008#32 ∧
      ¬ LegalWord 0x00000806#32 ∧ LegalWord 0x00000421#32 ∧ LegalWord 0x00000011#32 ∧ LegalWord 0x00000007#32 :=
  ⟨rfl, rfl, by decide, by decide, by decide, by decide, by decide, by decide, by decide⟩

theorem witness_StepRunsDecodedCommand :
    (pendingState [.write 0 7#32, .reset]).pending = .write (pendingState []).base 7#32 :: [.reset] ∧
      decode 7#32 = .ok .parse := by decide

theorem witness_AssemblerEmitsLegalWords :
    assemble (.enc 1) = some 0x11#32 ∧ assemble (.dec 66) = some 0x422#32 ∧ (0 = 0 ∨ 66 < 0) ∧ (67 = 0 ∨ 66 < 67) := by
  decide

theorem witness_AlphabetWindowHoldsTheTable : 0 < 64 ∧ 63 < 64 := by decide

/-- Bit counts 1 and 66, and two values that agree below bit 1. -/
theorem witness_EncodeIgnoresHighBits : (3#66).toNat % 2 ^ 1 = (1#66).toNat % 2 ^ 1 := by decide

theorem witness_EncodeBitsCutsGroups : (1 ≤ 1 ∧ 1 ≤ 66) ∧ (1 ≤ 66 ∧ 66 ≤ 66) ∧ 0 < (1 + 5) / 6 ∧ 10 < (66 + 5) / 6 := by
  decide

/-- The three clauses: a wrong length, a bad last character (after a good one), a good string; N = 7. -/
theorem witness_DecodeBitsChecksThenAccumulates :
    (ascii "V").length = 1 ∧ 1 ≠ (7 + 5) / 6 ∧
    (ascii "V!").length = (7 + 5) / 6 ∧ ¬ ValidChar ((ascii "V!").getD 1 0#8) ∧ (∀ i, i < 1 → ValidChar ((ascii "V!").getD i 0#8)) ∧
    (ascii "VA").length = (7 + 5) / 6 ∧ ∀ j, j < 2 → ValidChar ((ascii "VA").getD j 0#8) := by decide +kernel

theorem witness_DecodeBitsClosedForm :
    (ascii "VA").length = 2 ∧ decodeBits (ascii "VA") 2 7 = .ok 0x2A#66 := by decide +kernel

theorem witness_DecodeBitsSucceedsOnWellFormedStrings :
    (ascii "VA").length = (7 + 5) / 6 ∧ ∀ c ∈ ascii "VA", ValidChar c := by decide +kernel

/-- Padding bits that are not 0 (93_implementation_defined.md I3), and an N that is a multiple of 6. -/
theorem witness_EncodeOfDecodeBitsIsCanonicalString :
    (ascii "AAAB").length = (23 + 5) / 6 ∧ (∀ c ∈ ascii "AAAB", ValidChar c) ∧
      (ascii "-_").length = (12 + 5) / 6 ∧ (∀ c ∈ ascii "-_", ValidChar c) ∧ 12 % 6 = 0 := by decide +kernel

theorem witness_DecodeOfEncodeBitsIsValue : 1 ≤ 23 ∧ 23 ≤ 66 := by decide

theorem witness_EncWritesDigitsOfV : 1 ≤ (66#7).toNat ∧ (66#7).toNat ≤ 66 ∧ 1 ≤ (1#7).toNat := by decide

theorem witness_DecWritesNumberOfString :
    1 ≤ (23#7).toNat ∧ (23#7).toNat ≤ 66 ∧ (stringState (ascii "JGis") 4).slen.toNat = ((23#7).toNat + 5) / 6 ∧
      ValidString (stringState (ascii "JGis") 4) (((23#7).toNat + 5) / 6) := by decide +kernel

theorem witness_WrongLengthIsReportedBeforeCharacters :
    1 ≤ (66#7).toNat ∧ (66#7).toNat ≤ 66 ∧ (stringState [] 0).slen.toNat ≠ ((66#7).toNat + 5) / 6 ∧
      (stringState [] 12).slen ≠ 11#8 := by decide +kernel

/-- The first and the last character: index 0 and index 10. -/
theorem witness_FirstBadCharacterIsReported :
    (stringState (ascii "!AAAAAAAAAA") 11).slen = 11#8 ∧ FirstBadChar (stringState (ascii "!AAAAAAAAAA") 11) 0 ∧
      (stringState (ascii "AAAAAAAAAA!") 11).slen.toNat = ((66#7).toNat + 5) / 6 ∧
      FirstBadChar (stringState (ascii "AAAAAAAAAA!") 11) 10 := by decide +kernel

theorem witness_BitCountOutOfRangeIsIllegal :
    ((0#7).toNat = 0 ∨ 66 < (0#7).toNat) ∧ ((67#7).toNat = 0 ∨ 66 < (67#7).toNat) := by decide

theorem witness_MaskOfZeroIsZeroForEveryMixer : State.reset.r = 0#23 := by decide

theorem witness_GenIsInjective : ∃ t t', exec .gen State.reset = .next t ∧ exec .gen State.reset = .next t' ∧ t.str = t'.str :=
  ⟨_, _, rfl, rfl, rfl⟩

theorem witness_ParseWritesIdentifierFields :
    (stringState (ascii "AAAAAAAAAAA") 11).slen = 11#8 ∧ ValidString (stringState (ascii "AAAAAAAAAAA") 11) 11 :=
  witness_valid_identifier

theorem witness_ParseWritesFragmentOfRandomField :
    (stringState (ascii "_______f___") 11).slen = 11#8 ∧ ValidString (stringState (ascii "_______f___") 11) 11 := by
  decide +kernel

theorem witness_GenInvertsParse :
    (stringState (ascii "KbnCASC____") 11).slen = 11#8 ∧ ValidString (stringState (ascii "KbnCASC____") 11) 11 := by
  decide +kernel

theorem witness_FragmentDecodesToRandomField :
    (stringState (ascii "UF0gnTJkjRW") 11).slen = 11#8 ∧ ValidString (stringState (ascii "UF0gnTJkjRW") 11) 11 := by
  decide +kernel

theorem witness_CommandsWriteOnlyTheirDestinations : exec .nop State.reset = .next (succeed State.reset) := rfl

/-- DEC 66 right after reset fails, since SLEN is 0. -/
theorem witness_FailedCommandWritesStatusOnly :
    (pendingState [.write 0 0x422#32]).pending = .write (pendingState []).base 0x422#32 :: [] ∧
      (pendingState []).cmd = 0#32 ∧
      nextSatisfies (step (pendingState [.write 0 0x422#32])) (fun t => decide (t.err ≠ 0#2)) = true := by decide

/-- STRETCH in two states with the same R and different V, H and T. -/
theorem witness_CommandResultsDependOnlyOnOperands :
    decode 3#32 = .ok .stretch ∧ AgreeOnReads .stretch State.reset (fieldState 5#42 1#1 0#23) := ⟨by decide, rfl⟩

theorem witness_CommandAndReservedWordsReadZero :
    (0x44 < 256 ∧ 0x44 % 4 = 0 ∧ 0x44 ≤ 0x44 ∧ 0x44 ≤ 0x7C) ∧ (0x7C < 256 ∧ 0x7C % 4 = 0 ∧ 0x7C ≤ 0x7C) ∧
      (0xFC < 256 ∧ 0xFC % 4 = 0 ∧ 0xC0 ≤ 0xFC) := by decide

theorem witness_HostWriteSetsItsFieldsOnly :
    (pendingState [.write 0x10 3#32]).pending = .write ((pendingState []).base + 0x10) 3#32 :: [] ∧
      rwMask 0x10 = some 0x00000003#32 ∧ rwMask 0x3C = some 0xFFFFFFFF#32 ∧ rwMask 0x08 = some 0xFFFFFFFF#32 := by decide

/-- A read at the window's last word, an ignored write to STATUS, a repeated write to V_LO. -/
theorem witness_OnlyCommandWritesHaveSideEffects :
    (0xFC < 256 ∧ 0xFC % 4 = 0 ∧ (pendingState [.read 0xFC]).pending = .read ((pendingState []).base + 0xFC) :: []) ∧
    (0x04 < 256 ∧ 0x04 % 4 = 0 ∧ (0x04 : Nat) ≠ 0 ∧ rwMask 0x04 = none ∧
      (pendingState [.write 4 9#32]).pending = .write ((pendingState []).base + 0x04) 9#32 :: []) ∧
    (pendingState [.write 8 9#32, .write 8 9#32]).pending =
      .write ((pendingState []).base + 8) 9#32 :: .write ((pendingState []).base + 8) 9#32 :: [] := by decide

/-- The count 2^42 + 5 of 95_test_vectors.md P4. -/
theorem witness_MillisecondCountWraps :
    (pendingState [.write 0x14 (BitVec.ofNat 32 0x40000000005),
      .write 0x18 (BitVec.ofNat 32 (0x40000000005 / 2 ^ 32))]).pending =
      .write ((pendingState []).base + 0x14) (BitVec.ofNat 32 0x40000000005) ::
        .write ((pendingState []).base + 0x18) (BitVec.ofNat 32 (0x40000000005 / 2 ^ 32)) :: [] := by decide

theorem witness_UnsupportedAccessIsRefused :
    (255 < 256 ∧ (pendingState [.otherWidth .read .bits8 255]).pending =
      .otherWidth .read .bits8 ((pendingState []).base + 255) :: []) ∧
    (254 < 256 ∧ 254 % 4 ≠ 0 ∧ (pendingState [.read 254]).pending = .read ((pendingState []).base + 254) :: []) ∧
    (1 < 256 ∧ 1 % 4 ≠ 0 ∧ (pendingState [.write 1 0#32]).pending = .write ((pendingState []).base + 1) 0#32 :: []) := by
  decide

/-- The first address past the window, and the last one below a window at 4. -/
theorem witness_AccessOutsideWindowFaults :
    ((256 : Nat) < State.reset.base ∨ State.reset.base + 256 ≤ 256) ∧
    (pendingState [.read 256]).pending = .read 256 :: [] ∧ (pendingState [.write 256 0#32]).pending = .write 256 0#32 :: [] ∧
    (pendingState [.otherWidth .write .bits64 256]).pending = .otherWidth .write .bits64 256 :: [] ∧
    (3 < ({ State.reset with base := 4 } : State).base) := by decide

theorem witness_StepStopsOnlyOutsideTheContract :
    (pendingState [.read 252]).pending = .read 252 :: [] ∧ inContract 0 (.read 252) = true ∧
      inContract 0 (.read 256) = false := by decide

theorem witness_HostProgramsInContractComplete :
    SafeProgram (pendingState [.write 0 6#32, .read 0x30, .reset]) := by decide

theorem witness_NextReadSeesCommandResults :
    0x30 < 256 ∧ 0x30 % 4 = 0 ∧ decode 6#32 = .ok .gen ∧
      (pendingState [.write 0 6#32, .read 0x30]).pending =
        .write (pendingState []).base 6#32 :: .read ((pendingState []).base + 0x30) :: [] := by decide

theorem witness_ReadOnlyRegistersChangeOnlyByCommandOrReset :
    (pendingState [.write 8 1#32]).pending = .write 8 1#32 :: [] ∧
      nextSatisfies (step (pendingState [.write 8 1#32])) (fun _ => true) = true ∧
      (∀ w, HostEvent.write 8 1#32 ≠ .write (pendingState []).base w) ∧ HostEvent.write 8 1#32 ≠ .reset :=
  ⟨rfl, by decide, (by intro w h; cases h), by decide⟩

theorem witness_BlockIsQuiescentWithoutEvents : State.reset.pending = [] := rfl

theorem witness_ResetLeavesEveryRegisterZero : (pendingState [.reset]).pending = .reset :: [] ∧ 0x7F < 0x80 := by decide

theorem witness_CommandsRightAfterReset :
    (1 ≤ (1#7).toNat ∧ (1#7).toNat ≤ 66) ∧ 1 ≤ (66#7).toNat ∧ (66#7).toNat ≤ 66 := by decide

/-- A state that meets the invariant and whose step is a command. -/
theorem witness_StepKeepsInvariant :
    Inv (pendingState [.write 0 3#32]) ∧ nextSatisfies (step (pendingState [.write 0 3#32])) (fun _ => true) = true :=
  ⟨⟨rfl, by decide, ⟨0#23, by decide +kernel⟩, .inl rfl⟩, by decide⟩

end Sys2Proof.Tests
end

section
/-! PROOFS. How commands end, on two runs: what the shared ways to end a command answer, what one command word does with
CMD, and that a command's results depend only on the registers it reads (10_state.md R22, 60_exceptions.md R194). -/

namespace Sys2Proof.Machine

open Claims

/-! ### Errors and STATUS.ERR -/

theorem statusBits_err (i : BitVec 4) (e : BitVec 2) : (statusBits i e).extractLsb' 0 2 = e := by
  apply BitVec.eq_of_toNat_eq
  rw [Bits.extract_toNat, statusBits_toNat]
  omega

/-- An error is seen in ERR (60_exceptions.md R191, R192). -/
theorem raise_err_ne_zero (e : CommandError) (s : State) : (raise e s).err ≠ 0#2 := by
  cases e <;> simp [State.err, statusOfError, statusBits_err, -statusOfError_invalidLength,
    -statusOfError_illegalCommand]

/-! ### Commands with a bit count that no legal word carries (log 12) -/

theorem execEnc_of_not_ok {n : BitCount} (s : State) (h : ¬ BitCountOk n) :
    execEnc n s = .next (raise .illegalCommand s) := if_neg h

theorem execDec_of_not_ok {n : BitCount} (s : State) (h : ¬ BitCountOk n) :
    execDec n s = .next (raise .illegalCommand s) := if_neg h

/-! ### One command word -/

@[simp] theorem completeCommand_next (t : State) : completeCommand (.next t) = .next (t.setCmd 0#32) := rfl

/-- A host write of a legal command word runs its command (30_encoding.md R70). -/
theorem step_of_write_legal {s : State} {w : Word} {rest : List HostEvent} {i : Instr}
    (h : s.pending = .write s.base w :: rest) (hw : decode w = .ok i) :
    step s = completeCommand (exec i ((s.setPending rest).setCmd w)) := by
  rw [step_of_write_cmd h, runCommand, State.setCmd_cmd, hw]

/-- A host write of an illegal command word raises ILLEGAL_COMMAND (60_exceptions.md R192). -/
theorem step_of_write_illegal {s : State} {w : Word} {rest : List HostEvent} {x : DecodeReject}
    (h : s.pending = .write s.base w :: rest) (hw : decode w = .error x) :
    step s = .next ((raise .illegalCommand ((s.setPending rest).setCmd w)).setCmd 0#32) := by
  rw [step_of_write_cmd h, runCommand, State.setCmd_cmd, hw, completeCommand_next]

/-! ### Two runs of one command -/

/-- Two runs of `i` both complete, with the same STATUS and, on success, the same results (60_exceptions.md R194). -/
def ResultsAgree (i : Instr) (o o' : Host.Outcome State Fault Refusal) : Prop :=
  ∃ t t', o = .next t ∧ o' = .next t' ∧ t.status = t'.status ∧ (t.err = 0#2 → AgreeOnWrites i t t')

theorem resultsAgree_succeed {i : Instr} {t t' : State} (h : AgreeOnWrites i (succeed t) (succeed t')) :
    ResultsAgree i (.next (succeed t)) (.next (succeed t')) :=
  ⟨_, _, rfl, rfl, by simp, fun _ => h⟩

theorem resultsAgree_raise (i : Instr) (e : CommandError) (s s' : State) :
    ResultsAgree i (.next (raise e s)) (.next (raise e s')) :=
  ⟨_, _, rfl, rfl, by simp, fun h => absurd h (raise_err_ne_zero e s)⟩

/-- Two commands that end with the same outcome `x` agree if their successes do. -/
theorem resultsAgree_finish {α : Type} {i : Instr} (x : Except CommandError α) (s s' : State) {f f' : α → State}
    (h : ∀ a, AgreeOnWrites i (succeed (f a)) (succeed (f' a))) :
    ResultsAgree i (.next (finish x s f)) (.next (finish x s' f')) := by
  cases x with
  | ok a => exact resultsAgree_succeed (h a)
  | error e => exact resultsAgree_raise i e s s'

/-- The end of a command in CMD keeps the agreement: no command's row names CMD (30_encoding.md R72). -/
theorem resultsAgree_completeCommand {i : Instr} {o o' : Host.Outcome State Fault Refusal} (h : ResultsAgree i o o') :
    ResultsAgree i (completeCommand o) (completeCommand o') := by
  obtain ⟨t, t', rfl, rfl, hstatus, hwrites⟩ := h
  refine ⟨_, _, completeCommand_next t, completeCommand_next t', hstatus, fun herr => ?_⟩
  have hw := hwrites herr
  cases i <;> exact hw

/-- What the host port and CMD hold is read by no command (30_encoding.md R72, column "reads"). -/
theorem agreeOnReads_setPending_setCmd {i : Instr} {s s' : State} (h : AgreeOnReads i s s') (es es' : List HostEvent)
    (w w' : Word) : AgreeOnReads i ((s.setPending es).setCmd w) ((s'.setPending es').setCmd w') := by
  cases i <;> exact h

theorem State.fields_congr {s s' : State} (h : s.t = s'.t ∧ s.h = s'.h ∧ s.r = s'.r) : s.fields = s'.fields := by
  obtain ⟨ht, hh, hr⟩ := h
  simp [State.fields, ht, hh, hr]

theorem State.decodeBits_congr {s s' : State} (h : s.str = s'.str ∧ s.slen = s'.slen) (n : Nat) :
    decodeBits s.chars s.slen.toNat n = decodeBits s'.chars s'.slen.toNat n := by
  obtain ⟨hstr, hslen⟩ := h
  simp [State.chars, hstr, hslen]

theorem execEnc_resultsAgree (n : BitCount) {s s' : State} (h : AgreeOnReads (.enc n) s s') :
    ResultsAgree (.enc n) (execEnc n s) (execEnc n s') := by
  have hv : s.v = s'.v := h
  by_cases hn : BitCountOk n
  · rw [execEnc_of_ok s hn, execEnc_of_ok s' hn, hv]
    exact resultsAgree_succeed (by simp [AgreeOnWrites])
  · rw [execEnc_of_not_ok s hn, execEnc_of_not_ok s' hn]
    exact resultsAgree_raise _ _ s s'

theorem execDec_resultsAgree (n : BitCount) {s s' : State} (h : AgreeOnReads (.dec n) s s') :
    ResultsAgree (.dec n) (execDec n s) (execDec n s') := by
  by_cases hn : BitCountOk n
  · rw [execDec_of_ok s hn, execDec_of_ok s' hn, State.decodeBits_congr h]
    exact resultsAgree_finish _ s s' (by simp [AgreeOnWrites])
  · rw [execDec_of_not_ok s hn, execDec_of_not_ok s' hn]
    exact resultsAgree_raise _ _ s s'

theorem execStretch_resultsAgree {s s' : State} (h : AgreeOnReads .stretch s s') :
    ResultsAgree .stretch (execStretch s) (execStretch s') := by
  have hr : s.r = s'.r := h
  rw [execStretch_eq, execStretch_eq, hr]
  exact resultsAgree_succeed (by simp [AgreeOnWrites])

theorem execPack_resultsAgree {s s' : State} (h : AgreeOnReads .pack s s') :
    ResultsAgree .pack (execPack s) (execPack s') := by
  rw [execPack_eq, execPack_eq, State.fields_congr h]
  exact resultsAgree_succeed (by simp [AgreeOnWrites])

theorem execUnpack_resultsAgree {s s' : State} (h : AgreeOnReads .unpack s s') :
    ResultsAgree .unpack (execUnpack s) (execUnpack s') := by
  have hv : s.v = s'.v := h
  rw [execUnpack_eq, execUnpack_eq, hv]
  exact resultsAgree_succeed (by simp [AgreeOnWrites])

theorem execGen_resultsAgree {s s' : State} (h : AgreeOnReads .gen s s') :
    ResultsAgree .gen (execGen s) (execGen s') := by
  rw [execGen_eq, execGen_eq, State.fields_congr h]
  exact resultsAgree_succeed (by simp [AgreeOnWrites])

theorem execParse_resultsAgree {s s' : State} (h : AgreeOnReads .parse s s') :
    ResultsAgree .parse (execParse s) (execParse s') := by
  unfold execParse
  rw [State.decodeBits_congr h]
  exact resultsAgree_finish _ s s' (by simp [AgreeOnWrites])

/-- Every command's results depend only on the registers it reads (10_state.md R22, 60_exceptions.md R194). -/
theorem exec_resultsAgree {i : Instr} {s s' : State} (h : AgreeOnReads i s s') :
    ResultsAgree i (exec i s) (exec i s') := by
  cases i with
  | nop => exact resultsAgree_succeed (by simp [AgreeOnWrites])
  | enc n => exact execEnc_resultsAgree n h
  | dec n => exact execDec_resultsAgree n h
  | stretch => exact execStretch_resultsAgree h
  | pack => exact execPack_resultsAgree h
  | unpack => exact execUnpack_resultsAgree h
  | gen => exact execGen_resultsAgree h
  | parse => exact execParse_resultsAgree h

/-- Settles O41: the word decodes alike in both states. A command's two runs agree by `exec_resultsAgree`; an illegal word
raises the same error in both. -/
theorem commandResultsDependOnlyOnOperands : Obligations.CommandResultsDependOnlyOnOperands := by
  intro s s' w rest rest' hpending hpending' hreads
  cases hdecode : decode w with
  | ok i =>
    rw [step_of_write_legal hpending hdecode, step_of_write_legal hpending' hdecode]
    have hagree := exec_resultsAgree (agreeOnReads_setPending_setCmd (hreads i hdecode) rest rest' w w)
    obtain ⟨t, t', hrun, hrun', hstatus, hwrites⟩ := resultsAgree_completeCommand hagree
    refine ⟨t, t', hrun, hrun', hstatus, fun j hj herr => ?_⟩
    obtain rfl : i = j := Except.ok.inj hj
    exact hwrites herr
  | error x =>
    rw [step_of_write_illegal hpending hdecode, step_of_write_illegal hpending' hdecode]
    exact ⟨_, _, rfl, rfl, by simp, nofun⟩

end Sys2Proof.Machine
end

section
/-! PROOFS. The legality check of 30_encoding.md R73: the decoder answers a command for exactly the legal words, and a
host write of any other word only raises ILLEGAL_COMMAND (60_exceptions.md R192). -/

namespace Sys2Proof.Machine

/-- Which OP and N fields stand for a command: the rows of 30_encoding.md R72 with a bit count take N in 1..66, the
others N = 0 (R73). -/
theorem exists_decodeOp_eq_ok_iff (op : BitVec 4) (n : BitCount) :
    (∃ i, decodeOp op n = .ok i) ↔
      ((op.toNat = 1 ∨ op.toNat = 2) ∧ BitCountOk n) ∨
      ((op.toNat = 0 ∨ op.toNat = 3 ∨ op.toNat = 4 ∨ op.toNat = 5 ∨ op.toNat = 6 ∨ op.toNat = 7) ∧ n = 0#7) := by
  constructor
  · rintro ⟨i, h⟩
    obtain ⟨hop, hn, -⟩ | ⟨hop, hn, -⟩ | ⟨hop, hn, -⟩ | ⟨hop, hn, -⟩ | ⟨hop, hn, -⟩ | ⟨hop, hn, -⟩ | ⟨hop, hn, -⟩ |
      ⟨hop, hn, -⟩ := decodeOp_eq_ok h
    case inr.inl | inr.inr.inl => exact .inl ⟨by omega, hn⟩
    all_goals exact .inr ⟨by omega, hn⟩
  · rintro (⟨hop, hn⟩ | ⟨hop, hn⟩)
    · obtain hop | hop := hop <;> simp only [decodeOp, hop] <;> exact ⟨_, decodeCounted_eq_ok.2 ⟨hn, rfl⟩⟩
    · obtain hop | hop | hop | hop | hop | hop := hop <;> simp only [decodeOp, hop] <;>
        exact ⟨_, decodePlain_eq_ok.2 ⟨hn, rfl⟩⟩

/-- The decoder's check is `legal(w)` of 30_encoding.md R73. -/
theorem exists_decode_eq_ok_iff_legalWord (w : Word) : (∃ i, decode w = .ok i) ↔ LegalWord w := by
  have hn : nField w = 0#7 ↔ w.toNat / 16 % 128 = 0 := by
    rw [← BitVec.toNat_inj, nField_toNat, BitVec.toNat_zero]
  simp only [decode_eq_ok, exists_and_left, exists_decodeOp_eq_ok_iff, rsvField_eq_zero_iff, opField_toNat, nField_toNat,
    hn, LegalWord, BitCountOk, Config.nMax]

theorem wellFormed_of_decode_eq_ok {w : Word} {i : Instr} (h : decode w = .ok i) : WellFormed i := by
  obtain ⟨-, hop⟩ := decode_eq_ok.1 h
  obtain ⟨-, -, rfl⟩ | ⟨-, hn, rfl⟩ | ⟨-, hn, rfl⟩ | ⟨-, -, rfl⟩ | ⟨-, -, rfl⟩ | ⟨-, -, rfl⟩ | ⟨-, -, rfl⟩ |
    ⟨-, -, rfl⟩ := decodeOp_eq_ok hop
  case inr.inl | inr.inr.inl => exact decide_eq_true hn
  all_goals rfl

/-- Settles O3: a word that is not legal decodes to no command, so its write ends in `raise`, which writes STATUS only,
and CMD returns to the 0 it held. -/
theorem illegalWordOnlyRaisesIllegalCommand : Obligations.IllegalWordOnlyRaisesIllegalCommand := by
  refine ⟨fun s w rest hpending hcmd hillegal => ?_, fun w hlegal => ?_⟩
  · cases hdecode : decode w with
    | ok i => exact absurd ((exists_decode_eq_ok_iff_legalWord w).1 ⟨i, hdecode⟩) hillegal
    | error x =>
      rw [step_of_write_illegal hpending hdecode, raise_eq, statusOfError_illegalCommand, ← hcmd]
      rfl
  · obtain ⟨i, hdecode⟩ := (exists_decode_eq_ok_iff_legalWord w).2 hlegal
    exact ⟨i, hdecode, wellFormed_of_decode_eq_ok hdecode⟩

end Sys2Proof.Machine
end

section
/-! PROOFS. The alphabet and its reverse lookup: `lookup` finds an index for a byte exactly when the byte is that index's
entry (10_state.md R33, R34). -/

namespace Sys2Proof.Machine

open Claims

/-- The code of each entry of the alphabet (10_state.md R33). -/
theorem alpha_toNat (i : Index) :
    (alpha i).toNat =
      if i.toNat < 26 then 0x41 + i.toNat else if i.toNat < 52 then 0x61 + (i.toNat - 26)
      else if i.toNat < 62 then 0x30 + (i.toNat - 52) else if i.toNat = 62 then 0x2D else 0x5F := by
  have hi := i.isLt
  simp only [alpha]
  split_ifs <;> simp only [BitVec.toNat_ofNat] <;> omega

/-- `lookup` and ALPHA are inverse: as numbers, the five ranges of codes do not overlap, and each is as long as its part of
the alphabet (10_state.md R34). -/
theorem lookup_eq_some_iff {b : Byte} {i : Index} : lookup b = some i ↔ alpha i = b := by
  have hi := i.isLt
  have hsome (c : Nat) : some (BitVec.ofNat 6 c) = some i ↔ c % 64 = i.toNat := by
    rw [Option.some_inj, ← BitVec.toNat_inj, BitVec.toNat_ofNat]
  rw [← BitVec.toNat_inj, alpha_toNat]
  simp only [lookup, apply_ite (· = some i), hsome, reduceCtorEq]
  grind

@[simp] theorem lookup_alpha (i : Index) : lookup (alpha i) = some i := lookup_eq_some_iff.2 rfl

/-- The reverse lookup misses the bytes outside the alphabet (10_state.md R34). -/
theorem lookup_eq_none_of_not_validChar {b : Byte} (h : ¬ ValidChar b) : lookup b = none :=
  Option.eq_none_iff_forall_ne_some.2 fun i hi => h ⟨i, lookup_eq_some_iff.1 hi⟩

@[simp] theorem digit_alpha (i : Index) : digit (alpha i) = i.toNat := by
  simp [digit]

end Sys2Proof.Machine
end

section
/-! PROOFS. The codec functions `encodeBits` and `decodeBits` (40_codec.md R100 to R102), and their round trip from value
to string to value (R106). -/

namespace Sys2Proof.Machine

open Claims

/-! ### Encoding -/

/-- Character j of an encoded string (40_codec.md R100, R101). -/
theorem encodeBits_getElem? (v : Value) (n j : Nat) (hj : j < charCount n) :
    (encodeBits v n)[j]? = some (alpha (encodeGroup v (n - 6 * j))) :=
  encodeGroups_getElem? v _ n j hj rfl

/-- The index looked up for a group, written out from its bits (40_codec.md R100, R101). -/
theorem encodeGroup_eq_ofNat (v : Value) {rem : Nat} (h : 1 ≤ rem) :
    encodeGroup v rem =
      BitVec.ofNat 6 (v.toNat / 2 ^ (rem - min 6 rem) % 2 ^ min 6 rem * 2 ^ (6 - min 6 rem)) := by
  rw [← encodeGroup_toNat v rem h, BitVec.ofNat_toNat, BitVec.setWidth_eq]

/-- Settles O9: the loop's groups start with `n - 6j` bits to process, of which at least one is left. -/
theorem encodeBitsCutsGroups : Obligations.EncodeBitsCutsGroups := by
  refine fun v n hn _ => ⟨encodeBits_length v n, fun j hj => ?_⟩
  rw [encodeBits_getElem? v n j hj, encodeGroup_eq_ofNat v (by omega)]

/-- An encoded string holds characters of the alphabet only (40_codec.md R101). -/
theorem validChar_of_mem_encodeGroups {v : Value} {k rem : Nat} {c : Byte} (h : c ∈ encodeGroups v k rem) :
    ValidChar c := by
  induction k generalizing rem with
  | zero => cases h
  | succ k ih =>
    obtain rfl | h := List.mem_cons.1 h
    · exact ⟨_, rfl⟩
    · exact ih h

/-! ### Decoding -/

/-- With a character still to come, there are bits to process, and one character less once its group is taken. -/
theorem charCount_succ {k rem : Nat} (h : k + 1 = charCount rem) : 1 ≤ rem ∧ k = charCount (rem - groupWidth rem) := by
  unfold charCount groupWidth at *
  omega

/-- Taking one group more: the new bits stand below the shifted accumulator (40_codec.md R102). -/
theorem decodeStep_toNat {acc : Value} {idx : Index} {rem m : Nat} (hrem : 1 ≤ rem) (hm : m + rem ≤ 66)
    (hacc : acc.toNat < 2 ^ m) :
    ((acc <<< groupWidth rem) ||| (decodeGroup idx rem).setWidth 66).toNat =
        acc.toNat * 2 ^ min 6 rem + idx.toNat / 2 ^ (6 - min 6 rem) ∧
      acc.toNat * 2 ^ min 6 rem + idx.toNat / 2 ^ (6 - min 6 rem) < 2 ^ (m + min 6 rem) := by
  have hidx : idx.toNat / 2 ^ (6 - min 6 rem) < 2 ^ min 6 rem := by
    rw [Nat.div_lt_iff_lt_mul (Nat.two_pow_pos _), ← Nat.pow_add, show min 6 rem + (6 - min 6 rem) = 6 by omega]
    exact idx.isLt
  have hsum : acc.toNat * 2 ^ min 6 rem + idx.toNat / 2 ^ (6 - min 6 rem) < 2 ^ (m + min 6 rem) := by
    calc
      _ < (acc.toNat + 1) * 2 ^ min 6 rem := Nat.succ_mul _ _ ▸ Nat.add_lt_add_left hidx _
      _ ≤ 2 ^ m * 2 ^ min 6 rem := Nat.mul_le_mul_right _ hacc
      _ = 2 ^ (m + min 6 rem) := (Nat.pow_add 2 m _).symm
  have hfit : 2 ^ (m + min 6 rem) ≤ 2 ^ 66 := Nat.pow_le_pow_right (by decide) (by omega)
  have hshift : acc.toNat * 2 ^ min 6 rem < 2 ^ 66 := (Nat.le_add_right _ _).trans_lt (hsum.trans_le hfit)
  have hgroup : idx.toNat / 2 ^ (6 - min 6 rem) < 2 ^ 66 := (Nat.le_add_left _ _).trans_lt (hsum.trans_le hfit)
  refine ⟨?_, hsum⟩
  rw [BitVec.toNat_or, BitVec.toNat_shiftLeft, BitVec.toNat_setWidth, decodeGroup_toNat idx rem hrem, groupWidth,
    Nat.shiftLeft_eq, Nat.mod_eq_of_lt hshift, Nat.mod_eq_of_lt hgroup, ← Nat.shiftLeft_eq,
    Nat.shiftLeft_add_eq_or_of_lt hidx]

theorem decodeGroups_cons_of_lookup {c : Byte} {idx : Index} (h : lookup c = some idx) (cs : List Byte) (j rem : Nat)
    (acc : Value) :
    decodeGroups (c :: cs) j rem acc =
      decodeGroups cs (j + 1) (rem - groupWidth rem)
        ((acc <<< groupWidth rem) ||| (decodeGroup idx rem).setWidth 66) := by
  simp only [decodeGroups, h]

theorem decodeGroups_cons_of_not_validChar {c : Byte} (h : ¬ ValidChar c) (cs : List Byte) (j rem : Nat) (acc : Value) :
    decodeGroups (c :: cs) j rem acc = .error (.invalidCharacter j) := by
  simp only [decodeGroups, lookup_eq_none_of_not_validChar h]

/-- The loop of `decodeBits` on characters of the alphabet. Its invariant: the accumulator has `m` bits, and with the bits
still to process it fits V. -/
theorem decodeGroups_eq_ok {cs : List Byte} {j rem m : Nat} {acc : Value} (hlen : cs.length = charCount rem)
    (hvalid : ∀ c ∈ cs, ValidChar c) (hm : m + rem ≤ 66) (hacc : acc.toNat < 2 ^ m) :
    ∃ v, decodeGroups cs j rem acc = .ok v ∧ v.toNat = accumulate cs rem acc.toNat ∧ v.toNat < 2 ^ (m + rem) := by
  induction cs generalizing j rem m acc with
  | nil =>
    exact ⟨acc, rfl, rfl, hacc.trans_le (Nat.pow_le_pow_right (by decide) (by omega))⟩
  | cons c cs ih =>
    obtain ⟨hrem, hlenRest⟩ := charCount_succ hlen
    obtain ⟨⟨idx, rfl⟩, hvalidRest⟩ := List.forall_mem_cons.1 hvalid
    obtain ⟨hstep, hbound⟩ := decodeStep_toNat (idx := idx) hrem hm hacc
    have hw : m + min 6 rem + (rem - groupWidth rem) = m + rem := by
      unfold groupWidth
      omega
    obtain ⟨v, hrun, hv, hlt⟩ := ih (j := j + 1) hlenRest hvalidRest (hw.trans_le hm) (hstep.trans_lt hbound)
    refine ⟨v, (decodeGroups_cons_of_lookup (lookup_alpha idx) cs j rem acc).trans hrun, ?_, hw ▸ hlt⟩
    rw [hv, hstep, accumulate, digit_alpha, groupWidth]

/-- The loop ends at the first character not in the alphabet, whatever follows it (40_codec.md R102). -/
theorem decodeGroups_eq_error_of_first_invalid {cs : List Byte} {m rem j : Nat} {acc : Value} (hj : j < cs.length)
    (hbad : ¬ ValidChar (cs.getD j 0#8)) (hgood : ∀ i, i < j → ValidChar (cs.getD i 0#8)) :
    decodeGroups cs m rem acc = .error (.invalidCharacter (m + j)) := by
  induction cs generalizing m rem j acc with
  | nil => cases hj
  | cons c cs ih =>
    cases j with
    | zero => exact decodeGroups_cons_of_not_validChar hbad cs m rem acc
    | succ j =>
      obtain ⟨idx, rfl⟩ : ValidChar c := hgood 0 j.succ_pos
      rw [decodeGroups_cons_of_lookup (lookup_alpha idx),
        ih (Nat.lt_of_succ_lt_succ hj) hbad fun i hi => hgood (i + 1) (Nat.succ_lt_succ hi), Nat.add_right_comm,
        Nat.add_assoc]

/-- On a string of the right length `decodeBits` is its loop (40_codec.md R102). -/
theorem decodeBits_of_length {cs : List Byte} {n : Nat} (h : cs.length = charCount n) :
    decodeBits cs cs.length n = decodeGroups cs 0 n 0#66 := by
  rw [decodeBits, if_pos h, ← h, List.take_length]

/-- What `decodeBits` returns for a string of the right length over the alphabet (40_codec.md R102). -/
theorem decodeBits_eq_ok {cs : List Byte} {n : Nat} (hn : n ≤ 66) (hlen : cs.length = charCount n)
    (hvalid : ∀ c ∈ cs, ValidChar c) :
    ∃ v, decodeBits cs cs.length n = .ok v ∧ v.toNat = accumulate cs n 0 ∧ v.toNat < 2 ^ n := by
  obtain ⟨v, hrun, hv, hlt⟩ := decodeGroups_eq_ok (j := 0) (m := 0) (acc := 0#66) hlen hvalid (by omega) (by simp)
  exact ⟨v, (decodeBits_of_length hlen).trans hrun, hv, by simpa using hlt⟩

theorem forall_mem_validChar_of_getD {cs : List Byte} (h : ∀ j, j < cs.length → ValidChar (cs.getD j 0#8)) :
    ∀ c ∈ cs, ValidChar c := by
  intro c hc
  obtain ⟨j, hj, rfl⟩ := List.getElem_of_mem hc
  simpa [hj] using h j hj

/-- Settles O11: a wrong length ends before the loop; the loop ends at the first bad character, or runs through. -/
theorem decodeBitsChecksThenAccumulates : Obligations.DecodeBitsChecksThenAccumulates := by
  rintro cs _ n - hn rfl
  refine ⟨decodeBits_of_wrong_length cs, fun hlen j hj hbad hgood => ?_, fun hlen hvalid => ?_⟩
  · rw [decodeBits_of_length hlen, decodeGroups_eq_error_of_first_invalid hj hbad hgood, Nat.zero_add]
  · exact decodeBits_eq_ok hn hlen (forall_mem_validChar_of_getD hvalid)

/-! ### Round trip -/

/-- Reading a group's bits back out of its slot discards the padding only. -/
theorem encodeGroup_div_padding (v : Value) {rem : Nat} (h : 1 ≤ rem) :
    (encodeGroup v rem).toNat / 2 ^ (6 - min 6 rem) = v.toNat / 2 ^ (rem - min 6 rem) % 2 ^ min 6 rem := by
  rw [encodeGroup_toNat v rem h, Nat.mul_div_cancel _ (Nat.two_pow_pos _)]

/-- The top `w` of `rem` bits of x, put back above the other `rem - w` (40_codec.md R100). -/
theorem mod_two_pow_eq_group_add (x : Nat) {rem w : Nat} (h : w ≤ rem) :
    x % 2 ^ rem = x / 2 ^ (rem - w) % 2 ^ w * 2 ^ (rem - w) + x % 2 ^ (rem - w) := by
  conv_lhs => rw [← Nat.sub_add_cancel h, Nat.pow_add, Nat.mod_mul]
  rw [Nat.mul_comm, Nat.add_comm]

/-- Accumulating the encoded groups of v puts its low `rem` bits below the accumulator. -/
theorem accumulate_encodeGroups (v : Value) {k rem : Nat} (hk : k = charCount rem) (acc : Nat) :
    accumulate (encodeGroups v k rem) rem acc = acc * 2 ^ rem + v.toNat % 2 ^ rem := by
  induction k generalizing rem acc with
  | zero =>
    obtain rfl : rem = 0 := by
      unfold charCount at hk
      omega
    simp [encodeGroups, accumulate, Nat.mod_one]
  | succ k ih =>
    obtain ⟨hrem, hk⟩ := charCount_succ hk
    have hw : min 6 rem ≤ rem := Nat.min_le_right 6 rem
    have hpow : 2 ^ rem = 2 ^ min 6 rem * 2 ^ (rem - min 6 rem) := by
      rw [← Nat.pow_add, Nat.add_sub_cancel' hw]
    unfold groupWidth at hk
    rw [encodeGroups, accumulate, groupWidth, ih hk, digit_alpha, encodeGroup_div_padding v hrem,
      mod_two_pow_eq_group_add v.toNat hw, hpow]
    ring

/-- Settles O14: the encoded string is well formed, so decoding accumulates its groups. -/
theorem decodeOfEncodeBitsIsValue : Obligations.DecodeOfEncodeBitsIsValue := by
  intro v n _ hn
  have hlen := encodeBits_length v n
  obtain ⟨u, hrun, hu, -⟩ := decodeBits_eq_ok hn hlen fun _ => validChar_of_mem_encodeGroups
  refine ⟨u, by rwa [hlen] at hrun, ?_⟩
  rw [hu, encodeBits, accumulate_encodeGroups v rfl, Nat.zero_mul, Nat.zero_add]

end Sys2Proof.Machine
end

section
/-! PROOFS. The RawID as arithmetic on natural numbers, and what PACK leaves (42_generator.md R150, R151). -/

namespace Sys2Proof.Machine

/-- Writing a result into V and succeeding, for any value: the result stays a variable, so no mask is unfolded. -/
theorem succeed_setV (s : State) (x : Value) : succeed (s.setV x) = { s with v := x, status := 0#8 } := rfl

/-- The fields of a RawID stand at bits 65:24, 23 and 22:0 (42_generator.md R150, 10_state.md R32). -/
theorem pack_toNat (f : IdFields) :
    (pack f).toNat = (obfuscate f.h f.r f.t).toNat * 2 ^ 24 + f.h.toNat * 2 ^ 23 + f.r.toNat := by
  calc
    (pack f).toNat = (obfuscate f.h f.r f.t ++ f.h).toNat * 2 ^ 23 + f.r.toNat := Bits.append_toNat _ _
    _ = ((obfuscate f.h f.r f.t).toNat * 2 ^ 1 + f.h.toNat) * 2 ^ 23 + f.r.toNat := by rw [Bits.append_toNat]
    _ = _ := by ring

/-- Settles O25: PACK succeeds with the RawID of T, H and R written into V, and `obfuscate` is R150's choice of ft. -/
theorem packWritesRawId : Obligations.PackWritesRawId := by
  intro s
  refine ⟨succeed (s.setV (pack s.fields)), execPack_eq s, ?_, ?_⟩
  · rw [succeed_v, State.setV_v, succeed_setV]
  · rw [succeed_v, State.setV_v, pack_toNat, State.fields_t, State.fields_h, State.fields_r, obfuscate]

end Sys2Proof.Machine
end

section
/-! PROOFS. What UNPACK and a successful PARSE write: the fields of V (43_parser.md R170) and the fragment of the random
field (R176). -/

namespace Sys2Proof.Machine

open Claims

/-! ### The fields of a RawID -/

/-- The random field is bits 22:0 (43_parser.md R170). -/
theorem unpack_r_toNat (v : Value) : (unpack v).r.toNat = v.toNat % 2 ^ 23 := by
  rw [unpack, Bits.extract_toNat, Nat.pow_zero, Nat.div_one]

/-- The flag is bit 23 (43_parser.md R170). -/
theorem unpack_h_toNat (v : Value) : (unpack v).h.toNat = v.toNat / 2 ^ 23 % 2 :=
  Bits.extract_toNat v 23 1

/-- The timestamp is bits 65:24, de-obfuscated with the flag and the random field that stand below them
(43_parser.md R170). -/
theorem unpack_t (v : Value) :
    (unpack v).t = obfuscate (unpack v).h (unpack v).r (BitVec.ofNat 42 (v.toNat / 2 ^ 24)) := by
  have hts : v.extractLsb' 24 42 = BitVec.ofNat 42 (v.toNat / 2 ^ 24) := by
    apply BitVec.eq_of_toNat_eq
    rw [Bits.extract_toNat, BitVec.toNat_ofNat]
  rw [← hts, unpack]

/-- Writing the three fields and succeeding, for any fields: they stay a variable, so no mask is unfolded. -/
theorem succeed_putFields (s : State) (f : IdFields) :
    succeed (s.putFields f) = { s with t := f.t, h := f.h, r := f.r, status := 0#8 } := rfl

/-- Settles O31: UNPACK succeeds with the fields of V written, and `obfuscate` is R170's choice of T. -/
theorem unpackSplitsRawId : Obligations.UnpackSplitsRawId := by
  intro s
  refine ⟨_, execUnpack_eq s, ?_⟩
  simp only [succeed_t, succeed_h, succeed_r, State.putFields_t, State.putFields_h, State.putFields_r]
  exact ⟨succeed_putFields s _, unpack_r_toNat s.v, unpack_h_toNat s.v, unpack_t s.v⟩

/-! ### The string in STR decodes -/

/-- The bytes of a valid string in STR are characters of the alphabet. -/
theorem validChar_of_mem_take_chars {s : State} {k : Nat} (h : ValidString s k) {c : Byte}
    (hc : c ∈ s.chars.take k) : ValidChar c := by
  obtain ⟨j, hj, rfl⟩ := List.mem_take_iff_getElem.1 hc
  rw [State.chars_length, Nat.lt_min] at hj
  exact h ⟨j, hj.2⟩ hj.1

/-- What `decodeBits` returns for a valid string in STR of the length SLEN names (40_codec.md R102). -/
theorem decodeBits_chars_eq_ok {s : State} {n : Nat} (hn : n ≤ 66) (hlen : s.slen.toNat = charCount n)
    (hvalid : ValidString s (charCount n)) :
    ∃ v, decodeBits s.chars s.slen.toNat n = .ok v ∧ v.toNat = accumulate (s.chars.take (charCount n)) n 0 ∧
      v.toNat < 2 ^ n := by
  have htake : (s.chars.take (charCount n)).length = charCount n := by
    rw [List.length_take, State.chars_length, charCount]
    omega
  have hrun := decodeBits_eq_ok hn htake fun _ => validChar_of_mem_take_chars hvalid
  rw [htake, ← decodeBits_take] at hrun
  rwa [hlen]

/-! ### PARSE -/

/-- A PARSE whose string decodes writes its five results (43_parser.md R172). -/
theorem execParse_of_decodeBits_eq_ok {s : State} {x : Value} (h : decodeBits s.chars s.slen.toNat 66 = .ok x) :
    execParse s = .next (succeed (((s.setV x).putFields (unpack x)).setFrag (fragmentOf (unpack x).r))) := by
  rw [execParse, h, finish_ok]

/-- PARSE succeeds on 11 characters of the alphabet, with the number their groups accumulate to in V (43_parser.md
R172). -/
theorem execParse_of_validString {s : State} (hlen : s.slen = 11#8) (hvalid : ValidString s 11) :
    ∃ x : Value, x.toNat = accumulate (s.chars.take 11) 66 0 ∧
      execParse s = .next (succeed (((s.setV x).putFields (unpack x)).setFrag (fragmentOf (unpack x).r))) := by
  obtain ⟨x, hrun, hx, -⟩ := decodeBits_chars_eq_ok (n := 66) le_rfl (congrArg BitVec.toNat hlen) hvalid
  exact ⟨x, hx, execParse_of_decodeBits_eq_ok hrun⟩

/-! ### The fragment -/

/-- FRAG holds a 4-character string whole. -/
theorem fragBuffer_toList_of_length {out : List Byte} (h : out.length = 4) : (fragBuffer out).toList = out := by
  match out, h with
  | [_, _, _, _], _ => rfl

/-- FRAG is `encodeBits` of the random field on 23 bits (43_parser.md R176). -/
theorem fragmentOf_toList (r : Rnd) : (fragmentOf r).toList = encodeBits (r.setWidth 66) 23 :=
  fragBuffer_toList_of_length (encodeBits_length _ 23)

/-- Character j of the fragment is the group that starts with `23 - 6j` bits to process (40_codec.md R101). -/
theorem fragmentOf_getElem (r : Rnd) (j : Fin 4) :
    (fragmentOf r)[j] = alpha (encodeGroup (r.setWidth 66) (23 - 6 * j.val)) := by
  rw [fragmentOf, fragBuffer_getElem, List.getD_eq_getElem?_getD, encodeBits_getElem? _ 23 j.val j.isLt,
    Option.getD_some]

/-- The random field as a 66-bit value is the same number (43_parser.md R176). -/
theorem rnd_setWidth_toNat (r : Rnd) : (r.setWidth 66).toNat = r.toNat :=
  BitVec.toNat_setWidth_of_le (by decide)

/-- A group of 6 bits is looked up as it stands (40_codec.md R101). -/
theorem encodeGroup_of_full (r : Rnd) (low : Nat) :
    encodeGroup (r.setWidth 66) (low + 6) = r.extractLsb' low 6 := by
  apply BitVec.eq_of_toNat_eq
  rw [encodeGroup_toNat _ _ (by omega), rnd_setWidth_toNat, Bits.extract_toNat, Nat.min_eq_left (by omega),
    Nat.add_sub_cancel, Nat.sub_self, Nat.pow_zero, Nat.mul_one]

/-- The last group, of 5 bits, is followed by a 0 bit (30_encoding.md R80). -/
theorem encodeGroup_of_last (r : Rnd) : encodeGroup (r.setWidth 66) 5 = r.extractLsb' 0 5 ++ 0#1 := by
  apply BitVec.eq_of_toNat_eq
  rw [encodeGroup_toNat _ _ (by omega), rnd_setWidth_toNat, Bits.append_toNat, Bits.extract_toNat]
  rfl

/-- The four characters of a fragment (30_encoding.md R80). -/
theorem fragmentOf_chars (r : Rnd) :
    (fragmentOf r)[0] = alpha (r.extractLsb' 17 6) ∧ (fragmentOf r)[1] = alpha (r.extractLsb' 11 6) ∧
      (fragmentOf r)[2] = alpha (r.extractLsb' 5 6) ∧ (fragmentOf r)[3] = alpha (r.extractLsb' 0 5 ++ 0#1) :=
  ⟨(fragmentOf_getElem r 0).trans (congrArg alpha (encodeGroup_of_full r 17)),
    (fragmentOf_getElem r 1).trans (congrArg alpha (encodeGroup_of_full r 11)),
    (fragmentOf_getElem r 2).trans (congrArg alpha (encodeGroup_of_full r 5)),
    (fragmentOf_getElem r 3).trans (congrArg alpha (encodeGroup_of_last r))⟩

/-- Settles O34: PARSE succeeds on the valid string, and FRAG is the fragment of the R it wrote. -/
theorem parseWritesFragmentOfRandomField : Obligations.ParseWritesFragmentOfRandomField := by
  intro s hlen hvalid
  obtain ⟨x, -, hrun⟩ := execParse_of_validString hlen hvalid
  refine ⟨_, hrun, by rw [succeed_status, statusOk_eq], ?_⟩
  simp only [succeed_frag, State.setFrag_frag, succeed_r, State.setFrag_r, State.putFields_r]
  exact ⟨fragmentOf_toList _, fragmentOf_chars _⟩

end Sys2Proof.Machine
end

section
/-! PROOFS. What the reset input leaves: every register 0, and every word of the window below ALPHA reads 0
(70_reset_and_hazards.md R220, R222). -/

namespace Sys2Proof.Machine

/-- The reset input takes the block to its reset state, with the events behind it still to perform
(70_reset_and_hazards.md R222). -/
theorem step_of_reset {s : State} {rest : List HostEvent} (h : s.pending = .reset :: rest) :
    step s = .next (platformReset (s.setPending rest)) := step_cons h

/-- The alphabet's words stand from offset 0x80 up (20_memory.md R52). -/
theorem le_of_windowReg_eq_alpha {off : Nat} {j : Fin 16} (h : windowReg off = .alpha j) : 0x80 ≤ off := by
  unfold windowReg at h
  split at h
  case h_18 =>
    split at h
    next hrange => exact hrange.1
    next => cases h
  all_goals cases h

/-- Four bytes 0 make the word 0 (20_memory.md R54). -/
theorem wordOfBytes_zero : wordOfBytes 0#8 0#8 0#8 0#8 = 0#32 := by decide

/-- Every word of STR is 0 after the reset input (70_reset_and_hazards.md R220). -/
theorem strWord_platformReset (s : State) (j : Nat) (hj : j + 3 < 16) : (platformReset s).strWord j hj = 0#32 := by
  simp only [State.strWord, platformReset_str, Vector.getElem_replicate, wordOfBytes_zero]

/-- After the reset input every register word reads 0; the alphabet, a ROM, does not (70_reset_and_hazards.md R220,
R221). -/
theorem readReg_platformReset (s : State) {x : WindowReg} (hx : ∀ j, x ≠ .alpha j) :
    readReg (platformReset s) x = 0#32 := by
  cases x
  case alpha j => exact absurd rfl (hx j)
  case str0 | str1 | str2 | str3 => exact strWord_platformReset s _ _
  case fragR => simp only [readReg, platformReset_frag, Vector.getElem_replicate, wordOfBytes_zero]
  all_goals simp [readReg, State.err, State.errIdx]

theorem readWord_platformReset (s : State) {off : Nat} (h : off < 0x80) : readWord (platformReset s) off = 0#32 :=
  readReg_platformReset s fun _ halpha => absurd (le_of_windowReg_eq_alpha halpha) (Nat.not_le.2 h)

/-- The state the model starts from is its own reset. -/
theorem platformReset_reset : platformReset State.reset = State.reset := rfl

/-- Settles O54: the step is the reset, whose registers are 0, and the start state is a state after reset. -/
theorem resetLeavesEveryRegisterZero : Obligations.ResetLeavesEveryRegisterZero := by
  refine ⟨fun s rest hpending => ?_, fun off hoff => ?_, rfl⟩
  · refine ⟨_, step_of_reset hpending, platformReset_status _, platformReset_v _, platformReset_t _, platformReset_r _,
      platformReset_h _, platformReset_m _, platformReset_slen _, fun j => ?_, fun j => ?_,
      readWord_platformReset _ (by decide)⟩
    · simp only [platformReset_str, Fin.getElem_fin, Vector.getElem_replicate]
    · simp only [platformReset_frag, Fin.getElem_fin, Vector.getElem_replicate]
  · rw [← platformReset_reset, readWord_platformReset _ hoff]

end Sys2Proof.Machine
end

section
/-! PROOFS. The command word's round trip (30_encoding.md R70 to R75): decoding inverts encoding, and a word that
decodes is its command's one encoding; and the words the assembler emits (R75, R76). -/

namespace Sys2Proof.Machine

/-! ### Round trip -/

/-- The opcode map finds a well-formed command at its own OP and N (30_encoding.md R72, R73). -/
theorem decodeOp_opcodeOf {i : Instr} (h : WellFormed i) : decodeOp (opcodeOf i) (bitCountOf i) = .ok i := by
  cases i with
  | enc n | dec n => exact decodeCounted_eq_ok.2 ⟨of_decide_eq_true h, rfl⟩
  | nop | stretch | pack | unpack | gen | parse => exact decodePlain_eq_ok.2 ⟨rfl, rfl⟩

/-- The opcode map answers a command at that command's OP and N only (30_encoding.md R72). -/
theorem fields_of_decodeOp_eq_ok {op : BitVec 4} {n : BitCount} {i : Instr} (h : decodeOp op n = .ok i) :
    op = opcodeOf i ∧ n = bitCountOf i := by
  obtain ⟨hop, hn, rfl⟩ | ⟨hop, -, rfl⟩ | ⟨hop, -, rfl⟩ | ⟨hop, hn, rfl⟩ | ⟨hop, hn, rfl⟩ | ⟨hop, hn, rfl⟩ |
    ⟨hop, hn, rfl⟩ | ⟨hop, hn, rfl⟩ := decodeOp_eq_ok h
  case inr.inl | inr.inr.inl => exact ⟨BitVec.eq_of_toNat_eq hop, rfl⟩
  all_goals exact ⟨BitVec.eq_of_toNat_eq hop, hn⟩

theorem decode_encode {i : Instr} (h : WellFormed i) : decode (encode i) = .ok i := by
  obtain ⟨hrsv, hn, hop⟩ := Laws.EncodedFields.of_encode i
  exact decode_eq_ok.2 ⟨hrsv, by rw [hop, hn, decodeOp_opcodeOf h]⟩

/-- A word is its three fields, RSV above N above OP (30_encoding.md R70). -/
theorem word_toNat_eq_fields (w : Word) :
    w.toNat = w.toNat / 2048 * 2048 + (nField w).toNat * 16 + (opField w).toNat := by
  rw [nField_toNat, opField_toNat]
  omega

theorem encode_of_decode_eq_ok {w : Word} {i : Instr} (h : decode w = .ok i) : encode i = w := by
  obtain ⟨hrsv, hop⟩ := decode_eq_ok.1 h
  obtain ⟨hopEq, hnEq⟩ := fields_of_decodeOp_eq_ok hop
  apply BitVec.eq_of_toNat_eq
  rw [encode_toNat, word_toNat_eq_fields w, (rsvField_eq_zero_iff w).1 hrsv, hopEq, hnEq, Nat.zero_mul, Nat.zero_add]

/-- Settles O1: the three fields of an encoded command are its row of the opcode map. -/
theorem decodeOfEncodeIsIdentity : Obligations.DecodeOfEncodeIsIdentity :=
  fun _ => decode_encode

/-- Settles O2: a decoded word's RSV is 0 and its other fields are the command's row. -/
theorem decodedWordIsItsOnlyEncoding : Obligations.DecodedWordIsItsOnlyEncoding :=
  fun _ _ h => ⟨wellFormed_of_decode_eq_ok h, encode_of_decode_eq_ok h⟩

/-- Settles O5: each word is looked up in the opcode map. -/
theorem writtenWordsDecodeAsTheSpecSays : Obligations.WrittenWordsDecodeAsTheSpecSays := by
  unfold Obligations.WrittenWordsDecodeAsTheSpecSays
  decide

/-! ### The assembler -/

theorem countedCommand_of_le {n : Nat} (h1 : 1 ≤ n) (h2 : n ≤ 66) (mk : BitCount → Instr) :
    countedCommand n mk = some (mk (BitVec.ofNat 7 n)) := if_pos ⟨h1, h2⟩

/-- A command with a bit count that the assembler accepts is well formed (30_encoding.md R73, R75). -/
theorem countedCommand_eq_some {n : Nat} {mk : BitCount → Instr} {i : Instr} (h : countedCommand n mk = some i) :
    ∃ c : BitCount, BitCountOk c ∧ i = mk c := by
  unfold countedCommand at h
  split at h
  next hn =>
    unfold Config.nMax at hn
    refine ⟨BitVec.ofNat 7 n, ?_, (Option.some.inj h).symm⟩
    simp only [BitCountOk, Config.nMax, BitVec.toNat_ofNat]
    omega
  next => cases h

/-- The assembler accepts well-formed commands only (30_encoding.md R75). -/
theorem wellFormed_of_asmInstr {c : AsmCommand} {i : Instr} (h : asmInstr c = some i) : WellFormed i := by
  cases c with
  | enc | dec | enc66 | dec66 | enc23 | dec23 =>
    obtain ⟨n, hn, rfl⟩ := countedCommand_eq_some h
    exact decide_eq_true hn
  | nop | stretch | pack | unpack | gen | parse | clrStatus =>
    cases h
    rfl

/-- The word of a command with a bit count: `(n << 4) | OP` (30_encoding.md R75). -/
theorem encode_counted {n : Nat} (hn : n ≤ 66) {i : Instr} (hi : bitCountOf i = BitVec.ofNat 7 n) :
    encode i = BitVec.ofNat 32 (n * 16 + (opcodeOf i).toNat) := by
  have hop := (opcodeOf i).isLt
  apply BitVec.eq_of_toNat_eq
  rw [encode_toNat, hi, BitVec.toNat_ofNat, BitVec.toNat_ofNat]
  omega

/-- Settles O6: the assembler encodes well-formed commands, whose words decode. -/
theorem assemblerEmitsLegalWords : Obligations.AssemblerEmitsLegalWords := by
  refine ⟨fun n h1 h2 => ?_, fun n hn => ?_, fun c w h => ?_⟩
  · simp only [assemble, asmInstr, countedCommand_of_le h1 h2, Option.map_some]
    exact ⟨congrArg some (encode_counted h2 rfl), congrArg some (encode_counted h2 rfl)⟩
  · have hnone (mk : BitCount → Instr) : countedCommand n mk = none := if_neg (by unfold Config.nMax; omega)
    simp only [assemble, asmInstr, hnone, Option.map_none, and_self]
  · obtain ⟨i, hi, rfl⟩ := Option.map_eq_some_iff.1 h
    exact ⟨i, decode_encode (wellFormed_of_asmInstr hi), hi⟩

end Sys2Proof.Machine
end

section
/-! PROOFS. The alphabet's two faces: the reverse lookup inverts it (10_state.md R34), and the window shows it whole in
every state (R33, 20_memory.md R52). -/

namespace Sys2Proof.Machine

/-- Settles O7. -/
theorem lookupInvertsAlphabet : Obligations.LookupInvertsAlphabet :=
  fun _ _ => lookup_eq_some_iff

/-- Byte `j` of a word put together from four bytes (20_memory.md R54). -/
theorem wordOfBytes_byte (f : Fin 4 → Byte) (j : Fin 4) :
    (wordOfBytes (f 0) (f 1) (f 2) (f 3)).toNat / 2 ^ (8 * j.val) % 256 = (f j).toNat := by
  have h0 := (f 0).isLt
  have h1 := (f 1).isLt
  have h2 := (f 2).isLt
  have h3 := (f 3).isLt
  rw [wordOfBytes_toNat]
  fin_cases j <;> simp <;> omega

theorem windowReg_alpha (j : Fin 16) : windowReg (0x80 + 4 * j.val) = .alpha j := by
  fin_cases j <;> rfl

/-- Byte `k` of ALPHAj is entry `4j + k` of the alphabet (20_memory.md R52). -/
theorem readWord_alpha_byte (s : State) (j : Fin 16) (k : Fin 4) :
    (readWord s (0x80 + 4 * j.val)).toNat / 2 ^ (8 * k.val) % 256 =
      (alpha (BitVec.ofNat 6 (4 * j.val + k.val))).toNat := by
  rw [readWord, windowReg_alpha]
  exact wordOfBytes_byte (fun k => alpha (BitVec.ofNat 6 (4 * j.val + k.val))) k

/-- Settles O8: byte `i mod 4` of word `i / 4` is entry `i`, whose code `alpha_toNat` gives. -/
theorem alphabetWindowHoldsTheTable : Obligations.AlphabetWindowHoldsTheTable := by
  intro s i hi
  have hbyte := readWord_alpha_byte s ⟨i / 4, by omega⟩ ⟨i % 4, by omega⟩
  simp only [Nat.div_add_mod] at hbyte
  rw [hbyte, alpha_toNat, BitVec.toNat_ofNat, Nat.mod_eq_of_lt hi]

end Sys2Proof.Machine
end

section
/-! PROOFS. The codec in base 64 (40_codec.md R103, R104): an encoded string writes the digits of the value moved above
its padding bits, a decoded value is the number the string writes less its padding bits, and the round trip from string
to value to string (R107). -/

namespace Sys2Proof.Machine

open Claims

/-! ### Encoding writes digits -/

/-- A field that lies below bit `n` is not changed by cutting the number to `n` bits. -/
theorem mod_two_pow_div_mod (x : Nat) {n low w : Nat} (h : low + w ≤ n) :
    x % 2 ^ n / 2 ^ low % 2 ^ w = x / 2 ^ low % 2 ^ w := by
  obtain ⟨d, rfl⟩ := Nat.exists_eq_add_of_le h
  rw [Nat.add_assoc, Nat.pow_add, Nat.mod_mul_right_div_self, Nat.mod_mod_of_dvd _ (Nat.pow_dvd_pow 2 (by omega))]

/-- The index of group j is digit j of the value's low `n` bits, moved above the padding bits (40_codec.md R103). The
last group is moved up in its slot; a group above it stands whole. -/
theorem encodeGroup_toNat_eq_encodeDigit (v : Value) {n j : Nat} (hj : j < charCount n) :
    (encodeGroup v (n - 6 * j)).toNat = encodeDigit v.toNat n j := by
  unfold charCount at hj
  rw [encodeGroup_toNat v _ (by omega), encodeDigit]
  by_cases hlast : n - 6 * j ≤ 6
  · obtain ⟨hk, hpad⟩ : (n + 5) / 6 - 1 - j = 0 ∧ 6 * ((n + 5) / 6) - n = 6 - (n - 6 * j) := by omega
    have hslot : 64 = 2 ^ (n - 6 * j) * 2 ^ (6 - (n - 6 * j)) := by
      rw [← Nat.pow_add, Nat.add_sub_cancel' hlast]
    rw [hk, hpad, Nat.min_eq_right hlast, Nat.sub_self, Nat.mul_zero, Nat.pow_zero, Nat.div_one, Nat.div_one, hslot,
      Nat.mul_mod_mul_right, Nat.mod_mod_of_dvd _ (Nat.pow_dvd_pow 2 (Nat.sub_le n (6 * j)))]
  · have hlow : 6 * ((n + 5) / 6 - 1 - j) = n - 6 * j - 6 + (6 * ((n + 5) / 6) - n) := by omega
    rw [hlow, Nat.min_eq_left (by omega), Nat.pow_add 2 (n - 6 * j - 6), Nat.mul_div_mul_right _ _ (Nat.two_pow_pos _),
      Nat.sub_self, Nat.pow_zero, Nat.mul_one]
    exact (mod_two_pow_div_mod v.toNat (w := 6) (by omega)).symm

/-- Character j of an encoded string is the alphabet's entry for digit j (40_codec.md R103). -/
theorem encodeBits_getElem?_eq_encodeDigit (v : Value) {n j : Nat} (hj : j < charCount n) :
    (encodeBits v n)[j]? = some (alpha (BitVec.ofNat 6 (encodeDigit v.toNat n j))) := by
  rw [encodeBits_getElem? v n j hj, ← encodeGroup_toNat_eq_encodeDigit v hj, BitVec.ofNat_toNat, BitVec.setWidth_eq]

/-- Settles O10: every character is a digit of the value cut to `n` bits. -/
theorem encodeIgnoresHighBits : Obligations.EncodeIgnoresHighBits := by
  intro v u n _ _ h
  apply List.ext_getElem?'
  intro j hj
  rw [encodeBits_length, encodeBits_length, Nat.max_self] at hj
  rw [encodeBits_getElem?_eq_encodeDigit v hj, encodeBits_getElem?_eq_encodeDigit u hj, encodeDigit, encodeDigit, h]

/-! ### The number a string writes -/

theorem stringNumber_cons (c : Byte) (cs : List Byte) (k : Nat) :
    stringNumber (c :: cs) (k + 1) = digit c * 2 ^ (6 * k) + stringNumber cs k := by
  rw [stringNumber, Finset.sum_range_succ', Nat.add_comm, stringNumber]
  congr 1
  refine Finset.sum_congr rfl fun j _ => ?_
  rw [List.getD_cons_succ, Nat.add_sub_cancel, Nat.add_comm j 1, Nat.sub_add_eq]

/-- Only the first `k` characters count. -/
theorem stringNumber_take (cs : List Byte) (k : Nat) : stringNumber (cs.take k) k = stringNumber cs k := by
  refine Finset.sum_congr rfl fun j hj => ?_
  rw [List.getD_eq_getElem?_getD, List.getElem?_take_of_lt (Finset.mem_range.1 hj), ← List.getD_eq_getElem?_getD]

theorem digit_lt (c : Byte) : digit c < 64 := ((lookup c).getD 0#6).isLt

theorem alpha_ofNat_digit {c : Byte} (h : ValidChar c) : alpha (BitVec.ofNat 6 (digit c)) = c := by
  obtain ⟨i, rfl⟩ := h
  rw [digit_alpha, BitVec.ofNat_toNat, BitVec.setWidth_eq]

theorem stringNumber_lt (cs : List Byte) : stringNumber cs cs.length < 2 ^ (6 * cs.length) := by
  induction cs with
  | nil => simp [stringNumber]
  | cons c cs ih =>
    have hc := digit_lt c
    rw [List.length_cons, stringNumber_cons, Nat.mul_succ, Nat.pow_add]
    calc
      _ < digit c * 2 ^ (6 * cs.length) + 2 ^ (6 * cs.length) := Nat.add_lt_add_left ih _
      _ = (digit c + 1) * 2 ^ (6 * cs.length) := (Nat.succ_mul _ _).symm
      _ ≤ 64 * 2 ^ (6 * cs.length) := Nat.mul_le_mul_right _ hc
      _ = _ := Nat.mul_comm _ _

/-- The digits of the number a string writes are its characters' indices (40_codec.md R104). -/
theorem stringNumber_digit {cs : List Byte} {j : Nat} (hj : j < cs.length) :
    stringNumber cs cs.length / 2 ^ (6 * (cs.length - 1 - j)) % 64 = digit (cs.getD j 0#8) := by
  induction cs generalizing j with
  | nil => cases hj
  | cons c cs ih =>
    have hlt := stringNumber_lt cs
    rw [List.length_cons, stringNumber_cons, Nat.add_sub_cancel]
    cases j with
    | zero =>
      rw [Nat.sub_zero, Nat.mul_comm, Nat.mul_add_div (Nat.two_pow_pos _), Nat.div_eq_of_lt hlt, Nat.add_zero,
        Nat.mod_eq_of_lt (digit_lt c), List.getD_cons_zero]
    | succ j =>
      rw [List.length_cons, Nat.succ_lt_succ_iff] at hj
      have hlow : 6 * cs.length = 6 * (cs.length - (j + 1)) + (6 + 6 * j) := by omega
      have hcut : (digit c * 2 ^ (6 * cs.length) + stringNumber cs cs.length) % 2 ^ (6 * cs.length) =
          stringNumber cs cs.length := by
        rw [Nat.mul_add_mod_self_right, Nat.mod_eq_of_lt hlt]
      rw [List.getD_cons_succ, ← ih hj, Nat.add_comm j 1, Nat.sub_add_eq]
      conv_rhs => rw [← hcut]
      exact (mod_two_pow_div_mod _ (w := 6) (by omega)).symm

/-! ### Decoding reads the number -/

/-- The loop of R102 in closed form: what is accumulated, the string's number below it, less the padding bits. -/
theorem accumulate_eq {cs : List Byte} {rem : Nat} (hlen : cs.length = charCount rem) (acc : Nat) :
    accumulate cs rem acc =
      (acc * 2 ^ (6 * cs.length) + stringNumber cs cs.length) / 2 ^ (6 * cs.length - rem) := by
  induction cs generalizing rem acc with
  | nil => simp [accumulate, stringNumber]
  | cons c cs ih =>
    obtain ⟨hrem, hlenRest⟩ := charCount_succ hlen
    unfold charCount groupWidth at *
    rw [accumulate, List.length_cons, stringNumber_cons]
    by_cases hlast : rem ≤ 6
    · obtain rfl : cs = [] := List.eq_nil_of_length_eq_zero (by omega)
      have hslot : acc * 2 ^ 6 = 2 ^ (6 - rem) * (acc * 2 ^ rem) := by
        rw [Nat.mul_left_comm, ← Nat.pow_add, Nat.sub_add_cancel hlast]
      simp only [accumulate, Nat.min_eq_right hlast, List.length_nil, Nat.zero_add, Nat.mul_one, hslot, stringNumber,
        Finset.range_zero, Finset.sum_empty, Nat.mul_zero, Nat.pow_zero, Nat.add_zero]
      rw [Nat.mul_add_div (Nat.two_pow_pos _)]
    · rw [Nat.min_eq_left (by omega)] at hlenRest ⊢
      have hpad : 6 * (cs.length + 1) - rem = 6 * cs.length - (rem - 6) := by omega
      rw [ih hlenRest, Nat.sub_self, Nat.pow_zero, Nat.div_one, hpad]
      congr 1
      ring

/-- The loop answers a value on strings over the alphabet only (40_codec.md R108). -/
theorem validChar_of_decodeGroups_eq_ok {cs : List Byte} {j rem : Nat} {acc v : Value}
    (h : decodeGroups cs j rem acc = .ok v) : ∀ c ∈ cs, ValidChar c := by
  induction cs generalizing j rem acc with
  | nil => nofun
  | cons c cs ih =>
    by_cases hc : ValidChar c
    · obtain ⟨idx, rfl⟩ := hc
      rw [decodeGroups_cons_of_lookup (lookup_alpha idx)] at h
      exact List.forall_mem_cons.2 ⟨⟨idx, rfl⟩, ih h⟩
    · rw [decodeGroups_cons_of_not_validChar hc] at h
      cases h

/-- Which strings `decodeBits` answers a value for (40_codec.md R108). -/
theorem wellFormed_of_decodeBits_eq_ok {cs : List Byte} {n : Nat} {v : Value} (h : decodeBits cs cs.length n = .ok v) :
    cs.length = charCount n ∧ ∀ c ∈ cs, ValidChar c := by
  have hlen : cs.length = charCount n := by
    by_contra hne
    rw [decodeBits_of_wrong_length cs hne] at h
    cases h
  rw [decodeBits_of_length hlen] at h
  exact ⟨hlen, validChar_of_decodeGroups_eq_ok h⟩

/-- The value of a well-formed string is its number less the padding bits (40_codec.md R104). -/
theorem decodeBits_eq_stringNumber {cs : List Byte} {n : Nat} (hn : n ≤ 66) (hlen : cs.length = charCount n)
    (hvalid : ∀ c ∈ cs, ValidChar c) :
    ∃ v, decodeBits cs cs.length n = .ok v ∧
      v.toNat = stringNumber cs cs.length / 2 ^ (6 * cs.length - n) ∧ v.toNat < 2 ^ n := by
  obtain ⟨v, hrun, hv, hlt⟩ := decodeBits_eq_ok hn hlen hvalid
  rw [accumulate_eq hlen, Nat.zero_mul, Nat.zero_add] at hv
  exact ⟨v, hrun, hv, hlt⟩

/-- Settles O12: the strings that decode are well formed, and their value is the accumulated one. -/
theorem decodeBitsClosedForm : Obligations.DecodeBitsClosedForm := by
  rintro cs _ n v _ hn rfl h
  obtain ⟨hlen, hvalid⟩ := wellFormed_of_decodeBits_eq_ok h
  obtain ⟨u, hrun, hu, -⟩ := decodeBits_eq_stringNumber hn hlen hvalid
  obtain rfl : u = v := Except.ok.inj (hrun.symm.trans h)
  rwa [hlen] at hu

/-- Settles O13. -/
theorem decodeBitsSucceedsOnWellFormedStrings : Obligations.DecodeBitsSucceedsOnWellFormedStrings := by
  rintro cs _ n _ hn rfl
  constructor
  · rintro ⟨v, h⟩
    exact wellFormed_of_decodeBits_eq_ok h
  · rintro ⟨hlen, hvalid⟩
    obtain ⟨v, hrun, -⟩ := decodeBits_eq_ok hn hlen hvalid
    exact ⟨v, hrun⟩

/-! ### From string to value to string -/

/-- Clearing the low `p` bits of a number clears those of its last digit. -/
theorem clear_low_mod (x : Nat) {p : Nat} (hp : p ≤ 6) : x / 2 ^ p * 2 ^ p % 64 = x % 64 / 2 ^ p * 2 ^ p := by
  have hslot : 64 = 2 ^ p * 2 ^ (6 - p) := by
    rw [← Nat.pow_add, Nat.add_sub_cancel' hp]
  rw [hslot, Nat.mod_mul_right_div_self, Nat.mul_comm (2 ^ p), Nat.mul_mod_mul_right]

/-- Clearing low bits leaves every digit above them. -/
theorem clear_low_div (x : Nat) {p low : Nat} (h : p ≤ low) : x / 2 ^ p * 2 ^ p / 2 ^ low = x / 2 ^ low := by
  obtain ⟨d, rfl⟩ := Nat.exists_eq_add_of_le h
  rw [Nat.pow_add, ← Nat.div_div_eq_div_mul, Nat.mul_div_cancel _ (Nat.two_pow_pos _), Nat.div_div_eq_div_mul]

/-- The digits of a decoded value are those of the string, with the padding bits of the last one cleared. -/
theorem encodeDigit_of_stringNumber {cs : List Byte} {x n j : Nat} (hlen : cs.length = charCount n)
    (hx : x = stringNumber cs cs.length / 2 ^ (6 * cs.length - n)) (hlt : x < 2 ^ n) (hj : j < cs.length) :
    encodeDigit x n j =
      if j = cs.length - 1 then digit (cs.getD j 0#8) / 2 ^ (6 * cs.length - n) * 2 ^ (6 * cs.length - n)
      else digit (cs.getD j 0#8) := by
  have hpad : 6 * cs.length - n ≤ 5 := by
    rw [hlen, charCount]
    omega
  have hdigit := stringNumber_digit hj
  rw [encodeDigit, Nat.mod_eq_of_lt hlt, ← charCount, ← hlen, hx]
  split
  next hlast =>
    rw [← hlast, Nat.sub_self, Nat.mul_zero, Nat.pow_zero, Nat.div_one] at hdigit ⊢
    rw [clear_low_mod _ (by omega), hdigit]
  next hlast => rw [clear_low_div _ (by omega), hdigit]

/-- Encoding the value of a string of valid characters, character by character. -/
theorem encodeBits_of_stringNumber {cs : List Byte} {v : Value} {n j : Nat} (hlen : cs.length = charCount n)
    (hvalid : ∀ c ∈ cs, ValidChar c) (hv : v.toNat = stringNumber cs cs.length / 2 ^ (6 * cs.length - n))
    (hlt : v.toNat < 2 ^ n) (hj : j < cs.length) :
    (encodeBits v n)[j]? =
      if j = cs.length - 1 then
        some (alpha (BitVec.ofNat 6 (digit (cs.getD j 0#8) / 2 ^ (6 * cs.length - n) * 2 ^ (6 * cs.length - n))))
      else cs[j]? := by
  rw [encodeBits_getElem?_eq_encodeDigit v (hlen ▸ hj), encodeDigit_of_stringNumber hlen hv hlt hj]
  split
  next => rfl
  next =>
    rw [List.getD_eq_getElem _ _ hj, alpha_ofNat_digit (hvalid _ (List.getElem_mem hj)), List.getElem?_eq_getElem hj]

/-- With no padding bits the string comes back whole (40_codec.md R107). -/
theorem encodeBits_of_stringNumber_of_mod_eq_zero {cs : List Byte} {v : Value} {n : Nat}
    (hlen : cs.length = charCount n) (hvalid : ∀ c ∈ cs, ValidChar c)
    (hv : v.toNat = stringNumber cs cs.length / 2 ^ (6 * cs.length - n))
    (hlt : v.toNat < 2 ^ n) (hn : n % 6 = 0) : encodeBits v n = cs := by
  have hpad : 6 * cs.length - n = 0 := by
    rw [hlen, charCount]
    omega
  apply List.ext_getElem?'
  intro j hj
  rw [encodeBits_length, ← hlen, Nat.max_self] at hj
  rw [encodeBits_of_stringNumber hlen hvalid hv hlt hj, hpad, Nat.pow_zero, Nat.div_one, Nat.mul_one,
    List.getD_eq_getElem _ _ hj, alpha_ofNat_digit (hvalid _ (List.getElem_mem hj)), List.getElem?_eq_getElem hj,
    ite_self]

/-- Settles O15: the last character loses its padding bits, and there are none when N is a multiple of 6. -/
theorem encodeOfDecodeBitsIsCanonicalString : Obligations.EncodeOfDecodeBitsIsCanonicalString := by
  intro cs n hn1 hn hlen hvalid
  obtain ⟨v, hrun, hv, hlt⟩ := decodeBits_eq_stringNumber hn hlen hvalid
  refine ⟨v, hrun, ?_, encodeBits_of_stringNumber_of_mod_eq_zero hlen hvalid hv hlt⟩
  have hinit : (cs.take (cs.length - 1)).length = cs.length - 1 := by simp
  have hpos : cs.length - 1 + 1 = cs.length := by omega
  apply List.ext_getElem?'
  intro j hj
  rw [encodeBits_length, List.length_append, hinit, List.length_singleton, hpos, charCount, ← hlen, Nat.max_self] at hj
  rw [encodeBits_of_stringNumber hlen hvalid hv hlt hj]
  split
  next hlast => rw [hlast, List.getElem?_append_right hinit.le, hinit, Nat.sub_self, List.getElem?_cons_zero]
  next hlast =>
    rw [List.getElem?_append_left (by omega), List.getElem?_take_of_lt (by omega)]

end Sys2Proof.Machine
end

section
/-! PROOFS. ENC and DEC in every state, and what DEC and PARSE do with a string that does not decode (40_codec.md R110,
R111; 60_exceptions.md R191, R195). -/

namespace Sys2Proof.Machine

open Claims

/-! ### ENC -/

/-- Writing a string result and succeeding, for any string: it stays a variable, so no mask is unfolded. -/
theorem succeed_putString (s : State) (out : List Byte) (k : Nat) :
    succeed (s.putString out k) = { s with str := strBuffer out, slen := BitVec.ofNat 8 k, status := 0#8 } := rfl

theorem charCount_le {n : Nat} (h : n ≤ 66) : charCount n ≤ 11 := by
  unfold charCount
  omega

/-- An encoded string in STR: its digits, and 0x00 past its end (40_codec.md R103, R110). -/
theorem strBuffer_encodeBits_getElem (v : Value) (n : Nat) (j : Fin 16) :
    (strBuffer (encodeBits v n))[j] =
      if j.val < charCount n then alpha (BitVec.ofNat 6 (encodeDigit v.toNat n j.val)) else 0#8 := by
  rw [strBuffer_getElem, List.getD_eq_getElem?_getD]
  split
  next hj => rw [encodeBits_getElem?_eq_encodeDigit v hj, Option.getD_some]
  next hj => rw [List.getElem?_eq_none (by rw [encodeBits_length]; omega), Option.getD_none]

/-- Settles O17: ENC succeeds with the encoded string written into STR and its length into SLEN. -/
theorem encWritesDigitsOfV : Obligations.EncWritesDigitsOfV := by
  intro n s h1 h2
  refine ⟨_, execEnc_of_ok s ⟨h1, h2⟩, succeed_putString s _ _, ?_, fun j => ?_⟩
  · have hk := charCount_le h2
    rw [succeed_slen, State.putString_slen, BitVec.toNat_ofNat, Nat.mod_eq_of_lt (by omega), charCount]
  · rw [succeed_str, State.putString_str, strBuffer_encodeBits_getElem, charCount]

/-! ### DEC and PARSE -/

/-- The value of the valid string in STR is the number it writes less the padding bits (40_codec.md R104). -/
theorem decodeBits_chars_eq_stringNumber {s : State} {n : Nat} (hn : n ≤ 66) (hlen : s.slen.toNat = charCount n)
    (hvalid : ValidString s (charCount n)) :
    ∃ v, decodeBits s.chars s.slen.toNat n = .ok v ∧
      v.toNat = stringNumber s.str.toList (charCount n) / 2 ^ (6 * charCount n - n) := by
  obtain ⟨v, hrun, hv, -⟩ := decodeBits_chars_eq_ok hn hlen hvalid
  have hk := charCount_le hn
  have htake : (s.chars.take (charCount n)).length = charCount n := by
    rw [List.length_take, State.chars_length, Nat.min_eq_left (by omega)]
  rw [accumulate_eq htake, Nat.zero_mul, Nat.zero_add, htake, stringNumber_take] at hv
  exact ⟨v, hrun, hv⟩

/-- DEC of a string that decodes writes its value into V (40_codec.md R111). -/
theorem execDec_of_decodeBits_eq_ok {n : BitCount} {s : State} {x : Value} (hn : BitCountOk n)
    (h : decodeBits s.chars s.slen.toNat n.toNat = .ok x) : execDec n s = .next (succeed (s.setV x)) := by
  rw [execDec_of_ok s hn, h, finish_ok]

/-- Settles O18: the valid string decodes, and DEC succeeds with its value written into V. -/
theorem decWritesNumberOfString : Obligations.DecWritesNumberOfString := by
  intro n s h1 h2 hlen hvalid
  obtain ⟨v, hrun, hv⟩ := decodeBits_chars_eq_stringNumber h2 hlen hvalid
  exact ⟨succeed (s.setV v), execDec_of_decodeBits_eq_ok ⟨h1, h2⟩ hrun, succeed_setV s v, hv⟩

/-- DEC of a string that does not decode raises the codec's error (40_codec.md R111). -/
theorem execDec_of_decodeBits_eq_error {n : BitCount} {s : State} {e : CommandError} (hn : BitCountOk n)
    (h : decodeBits s.chars s.slen.toNat n.toNat = .error e) :
    execDec n s = .next { s with status := statusOfError e } := by
  rw [execDec_of_ok s hn, h, finish_error, raise_eq]

/-- PARSE of a string that does not decode raises the codec's error (43_parser.md R172). -/
theorem execParse_of_decodeBits_eq_error {s : State} {e : CommandError}
    (h : decodeBits s.chars s.slen.toNat 66 = .error e) : execParse s = .next { s with status := statusOfError e } := by
  rw [execParse, h, finish_error, raise_eq]

/-- Settles O19: the codec checks the length before it looks at a character. -/
theorem wrongLengthIsReportedBeforeCharacters : Obligations.WrongLengthIsReportedBeforeCharacters := by
  refine ⟨fun n s h1 h2 hlen => ?_, fun s hlen => ?_⟩
  · exact execDec_of_decodeBits_eq_error ⟨h1, h2⟩ (decodeBits_of_wrong_length _ hlen)
  · exact execParse_of_decodeBits_eq_error (decodeBits_of_wrong_length _ fun h => hlen (BitVec.eq_of_toNat_eq h))

/-- The codec reports the first bad character of the string in STR (40_codec.md R102). -/
theorem decodeBits_chars_of_firstBadChar {s : State} {n : Nat} {j : Fin 16} (hlen : s.slen.toNat = charCount n)
    (hj : j.val < charCount n) (hbad : FirstBadChar s j) :
    decodeBits s.chars s.slen.toNat n = .error (.invalidCharacter j.val) := by
  obtain ⟨hbadAt, hgood⟩ := hbad
  have hget (i : Fin 16) (hi : i.val ≤ j.val) : (s.chars.take (charCount n)).getD i.val 0#8 = s.str[i] := by
    rw [List.getD_eq_getElem?_getD, List.getElem?_take_of_lt (by omega), ← List.getD_eq_getElem?_getD, State.chars_getD]
  have hlt : j.val < (s.chars.take (charCount n)).length := by
    rw [List.length_take, State.chars_length, Nat.lt_min]
    exact ⟨hj, j.isLt⟩
  rw [decodeBits, if_pos hlen, decodeGroups_eq_error_of_first_invalid hlt, Nat.zero_add]
  · rwa [hget j le_rfl]
  · intro i hi
    rw [hget ⟨i, hi.trans j.isLt⟩ hi.le]
    exact hgood ⟨i, hi.trans j.isLt⟩ hi

/-- Settles O20: the codec's loop ends at the first bad character, and its index goes into ERRIDX. -/
theorem firstBadCharacterIsReported : Obligations.FirstBadCharacterIsReported := by
  refine ⟨fun n s j h1 h2 hlen hj hbad => ?_, fun s j hlen hj hbad => ?_⟩
  · rw [← statusOfError_invalidCharacter]
    exact execDec_of_decodeBits_eq_error ⟨h1, h2⟩ (decodeBits_chars_of_firstBadChar hlen hj hbad)
  · rw [← statusOfError_invalidCharacter]
    exact execParse_of_decodeBits_eq_error (decodeBits_chars_of_firstBadChar (congrArg BitVec.toNat hlen) hj hbad)

/-- Settles O21: such a count fails the check both commands begin with. -/
theorem bitCountOutOfRangeIsIllegal : Obligations.BitCountOutOfRangeIsIllegal := by
  intro n s hn
  have hbad : ¬ BitCountOk n := by
    unfold BitCountOk Config.nMax
    omega
  exact ⟨execEnc_of_not_ok s hbad, execDec_of_not_ok s hbad⟩

end Sys2Proof.Machine
end

section
/-! PROOFS. The mixer on natural numbers, the mask of 0, and masking twice (41_mixer.md R130, R133, R135). -/

namespace Sys2Proof.Machine

open Claims

/-- Writing a mask and succeeding, for any mask: it stays a variable, so it is not unfolded. -/
theorem succeed_setM (s : State) (x : Stamp) : succeed (s.setM x) = { s with m := x, status := 0#8 } := rfl

/-- The block's mixer is R130's pseudocode on the number R. -/
theorem stretch_toNat (r : Rnd) : (stretch r).toNat = mixNat r.toNat := by
  rw [stretch_eq, BitVec.toNat_setWidth, mixRound_none_toNat, mixRound_some_toNat, mixRound_some_toNat,
    BitVec.toNat_setWidth_of_le (by decide), mixNat]

/-- Settles O22: STRETCH succeeds with the mask written into M. -/
theorem stretchWritesMixedMask : Obligations.StretchWritesMixedMask :=
  fun s => ⟨succeed (s.setM (stretch s.r)), execStretch_eq s, succeed_setM s _, stretch_toNat s.r⟩

/-- Every round maps 0 to 0, with a multiplication or without (41_mixer.md R133). -/
theorem mixRound_zero {w : Nat} (k : Nat) (c : Option Nat) : mixRound k c 0#w = 0#w := by
  cases c with
  | none => rw [mixRound_none, BitVec.zero_ushiftRight, BitVec.xor_zero]
  | some c => rw [mixRound_some, BitVec.zero_ushiftRight, BitVec.xor_zero, BitVec.zero_mul]

theorem stretchWith_zero (p : MixParams) : stretchWith p 0#23 = 0#42 := by
  simp only [stretchWith, BitVec.setWidth_zero, mixRound_zero]

theorem stretch_zero : stretch 0#23 = 0#42 := stretchWith_zero blockMixer

/-- Settles O23: 0 passes through every round, so it is the mask STRETCH writes. -/
theorem maskOfZeroIsZeroForEveryMixer : Obligations.MaskOfZeroIsZeroForEveryMixer := by
  refine ⟨stretchWith_zero, fun s hr => ?_⟩
  have hmask : stretch s.r = 0#42 := by rw [hr, stretch_zero]
  rw [exec, execStretch_eq, hmask, succeed_setM]

/-- Masking twice with one random field gives the timestamp back (41_mixer.md R135). -/
theorem obfuscate_obfuscate (h : BitVec 1) (r : Rnd) (t : Stamp) : obfuscate h r (obfuscate h r t) = t := by
  unfold obfuscate
  split
  next => rw [BitVec.xor_assoc, BitVec.xor_self, BitVec.xor_zero]
  next => rfl

/-- Settles O24. -/
theorem obfuscationIsInvolution : Obligations.ObfuscationIsInvolution :=
  obfuscate_obfuscate

end Sys2Proof.Machine
end

section
/-! PROOFS. `pack` and `unpack` invert each other (42_generator.md R154, R155), and so do the commands that use them
(43_parser.md R173, R174). -/

namespace Sys2Proof.Machine

open Claims

/-! ### pack and unpack -/

/-- The three fields of a concatenation, from the lowest. -/
theorem extract_of_fields (x : Stamp) (h : BitVec 1) (r : Rnd) :
    (x ++ h ++ r).extractLsb' 0 23 = r ∧ (x ++ h ++ r).extractLsb' 23 1 = h ∧ (x ++ h ++ r).extractLsb' 24 42 = x := by
  have hx := x.isLt
  have hh := h.isLt
  have hr := r.isLt
  have hsum : (x ++ h ++ r).toNat = (x.toNat * 2 ^ 1 + h.toNat) * 2 ^ 23 + r.toNat := by
    rw [← Bits.append_toNat x h]
    exact Bits.append_toNat _ _
  refine ⟨?_, ?_, ?_⟩ <;>
  · apply BitVec.eq_of_toNat_eq
    rw [Bits.extract_toNat, hsum]
    omega

/-- The fields cut out of a RawID, put together again (10_state.md R32). -/
theorem append_of_extracts (v : Value) : v.extractLsb' 24 42 ++ v.extractLsb' 23 1 ++ v.extractLsb' 0 23 = v := by
  have hv := v.isLt
  apply BitVec.eq_of_toNat_eq
  calc
    _ = (v.extractLsb' 24 42 ++ v.extractLsb' 23 1).toNat * 2 ^ 23 + (v.extractLsb' 0 23).toNat := Bits.append_toNat _ _
    _ = ((v.extractLsb' 24 42).toNat * 2 ^ 1 + (v.extractLsb' 23 1).toNat) * 2 ^ 23 + (v.extractLsb' 0 23).toNat := by
      rw [Bits.append_toNat]
    _ = v.toNat := by
      simp only [Bits.extract_toNat]
      omega

/-- `unpack` inverts `pack` (42_generator.md R154). -/
theorem unpack_pack (f : IdFields) : unpack (pack f) = f := by
  obtain ⟨hr, hh, ht⟩ := extract_of_fields (obfuscate f.h f.r f.t) f.h f.r
  simp only [unpack, pack, hr, hh, ht, obfuscate_obfuscate]

/-- `pack` inverts `unpack` (42_generator.md R155). -/
theorem pack_unpack (v : Value) : pack (unpack v) = v := by
  simp only [unpack, pack, obfuscate_obfuscate, append_of_extracts]

/-- Settles O26. -/
theorem unpackInvertsPack : Obligations.UnpackInvertsPack :=
  unpack_pack

/-- Settles O27: `unpack` is the inverse on both sides. -/
theorem packIsBijective : Obligations.PackIsBijective :=
  Function.bijective_iff_has_inverse.2 ⟨unpack, unpack_pack, pack_unpack⟩

/-- Settles O32: UNPACK reads back the fields PACK packed, and writing a register's own value changes nothing. -/
theorem unpackAfterPackRestoresFields : Obligations.UnpackAfterPackRestoresFields := by
  refine fun s => ⟨succeed (s.setV (pack s.fields)), execPack_eq s, ?_, rfl, rfl, rfl⟩
  rw [exec, execUnpack_eq, succeed_v, State.setV_v, unpack_pack]
  apply congrArg
  apply State.ext_fields <;> simp

/-! ### GEN -/

/-- A RawID whole is digit j of its own 66 bits (42_generator.md R150). -/
theorem encodeDigit_of_value (v : Value) {j : Nat} (hj : j < 11) :
    encodeDigit v.toNat 66 j = (v.extractLsb' (60 - 6 * j) 6).toNat := by
  rw [encodeDigit, Nat.mod_eq_of_lt v.isLt, Bits.extract_toNat, show 6 * ((66 + 5) / 6 - 1 - j) = 60 - 6 * j by omega]
  simp

/-- A RawID's characters in STR (30_encoding.md R79). -/
theorem strBuffer_encodeBits_of_value (v : Value) (j : Fin 16) :
    (strBuffer (encodeBits v 66))[j] = if j.val < 11 then alpha (v.extractLsb' (60 - 6 * j.val) 6) else 0#8 := by
  rw [strBuffer_encodeBits_getElem, show charCount 66 = 11 from rfl]
  split
  next hj => rw [encodeDigit_of_value v hj, BitVec.ofNat_toNat, BitVec.setWidth_eq]
  next => rfl

/-- Writing a RawID and its string and succeeding, for any value: no mask is unfolded. -/
theorem succeed_setV_putString (s : State) (x : Value) (out : List Byte) (k : Nat) :
    succeed ((s.setV x).putString out k) =
      { s with v := x, str := strBuffer out, slen := BitVec.ofNat 8 k, status := 0#8 } := rfl

/-- Settles O28: GEN succeeds with the RawID in V and its characters in STR. -/
theorem genWritesIdentifier : Obligations.GenWritesIdentifier := by
  refine fun s => ⟨_, execGen_eq s, succeed_setV_putString s _ _ _, ?_, fun j => ?_⟩
  · rw [succeed_v, State.putString_v, State.setV_v, pack_toNat, State.fields_t, State.fields_h, State.fields_r,
      obfuscate]
  · rw [succeed_str, State.putString_str, succeed_v, State.putString_v, State.setV_v, strBuffer_encodeBits_of_value]

/-- Settles O29: ENC 66 after PACK encodes the RawID that PACK left in V. -/
theorem genIsPackThenEncode66 : Obligations.GenIsPackThenEncode66 := by
  refine fun s => ⟨_, _, execPack_eq s, execEnc_of_ok _ (by decide), (execGen_eq s).trans ?_⟩
  rw [succeed_v, State.setV_v]
  apply congrArg
  apply State.ext_fields <;> rfl

/-- The string of a RawID decodes to it (40_codec.md R106). -/
theorem decodeBits_encodeBits_66 (v : Value) : decodeBits (encodeBits v 66) 11 66 = .ok v := by
  obtain ⟨u, hrun, hu⟩ := decodeOfEncodeBitsIsValue v 66 (by decide) le_rfl
  rw [Nat.mod_eq_of_lt v.isLt] at hu
  rwa [BitVec.eq_of_toNat_eq hu] at hrun

/-- A string that fits STR is found there again. -/
theorem take_strBuffer {out : List Byte} (h : out.length ≤ 16) : (strBuffer out).toList.take out.length = out := by
  apply List.ext_getElem
  · simpa using h
  · intro i _ hi
    rw [List.getElem_take, Vector.getElem_toList]
    exact (strBuffer_getElem out ⟨i, by omega⟩).trans (List.getD_eq_getElem _ _ hi)

/-- The string of a RawID in STR. -/
theorem take_strBuffer_encodeBits_66 (v : Value) : (strBuffer (encodeBits v 66)).toList.take 11 = encodeBits v 66 := by
  have hlen : (encodeBits v 66).length = 11 := encodeBits_length v 66
  conv_lhs => rw [← hlen, take_strBuffer (by rw [hlen]; decide)]

/-- Settles O30: the string in STR decodes to the RawID, and the RawID unpacks to the operands. -/
theorem genIsInjective : Obligations.GenIsInjective := by
  intro s s' t t' ht ht' hstr
  rw [exec, execGen_eq] at ht ht'
  cases ht
  cases ht'
  simp only [succeed_str, State.putString_str] at hstr
  have hcode : encodeBits (pack s.fields) 66 = encodeBits (pack s'.fields) 66 := by
    rw [← take_strBuffer_encodeBits_66, hstr, take_strBuffer_encodeBits_66]
  have hpack : pack s.fields = pack s'.fields := by
    have hdecode := decodeBits_encodeBits_66 (pack s.fields)
    rw [hcode, decodeBits_encodeBits_66] at hdecode
    exact (Except.ok.inj hdecode).symm
  have hfields : s.fields = s'.fields := packIsBijective.injective hpack
  exact ⟨congrArg IdFields.t hfields, congrArg IdFields.h hfields, congrArg IdFields.r hfields⟩

/-! ### PARSE -/

/-- Writing PARSE's five results and succeeding, for any results: no mask is unfolded. -/
theorem succeed_parse (s : State) (x : Value) (f : IdFields) (c : Vector Byte 4) :
    succeed (((s.setV x).putFields f).setFrag c) =
      { s with v := x, t := f.t, h := f.h, r := f.r, frag := c, status := 0#8 } := rfl

/-- The operands that a GEN after PARSE reads. -/
theorem fields_succeed_parse (s : State) (x : Value) (f : IdFields) (c : Vector Byte 4) :
    (succeed (((s.setV x).putFields f).setFrag c)).fields = f := rfl

/-- Settles O33: the valid string decodes, and PARSE succeeds with its value and that value's fields. -/
theorem parseWritesIdentifierFields : Obligations.ParseWritesIdentifierFields := by
  intro s hlen hvalid
  obtain ⟨x, hrun, hx⟩ := decodeBits_chars_eq_stringNumber (n := 66) le_rfl (congrArg BitVec.toNat hlen) hvalid
  refine ⟨_, execParse_of_decodeBits_eq_ok hrun, ?_⟩
  simp only [succeed_v, succeed_t, succeed_h, succeed_r, succeed_frag, State.setFrag_v, State.setFrag_t,
    State.setFrag_h, State.setFrag_r, State.setFrag_frag, State.putFields_v, State.putFields_t, State.putFields_h,
    State.putFields_r, State.setV_v]
  refine ⟨succeed_parse s _ _ _, ?_, unpack_r_toNat x, unpack_h_toNat x, unpack_t x⟩
  rw [hx]
  exact Nat.div_one _

/-- The string GEN leaves in STR decodes to the RawID (40_codec.md R106). -/
theorem decodeBits_chars_of_putString (s : State) (v : Value) :
    decodeBits (succeed (s.putString (encodeBits v 66) 11)).chars 11 66 = .ok v := by
  rw [decodeBits_take, State.chars, succeed_str, State.putString_str, show charCount 66 = 11 from rfl,
    take_strBuffer_encodeBits_66, decodeBits_encodeBits_66]

/-- Settles O35: GEN's string decodes to the RawID, whose fields are the ones packed. -/
theorem parseInvertsGen : Obligations.ParseInvertsGen := by
  intro s
  refine ⟨_, _, execGen_eq s, execParse_of_decodeBits_eq_ok (decodeBits_chars_of_putString _ _), ?_⟩
  rw [unpack_pack]
  simp only [succeed_t, succeed_h, succeed_r, succeed_frag, State.setFrag_t, State.setFrag_h, State.setFrag_r,
    State.setFrag_frag, State.putFields_t, State.putFields_h, State.putFields_r, State.fields_t, State.fields_h,
    State.fields_r, fragmentOf_toList, and_true]
  apply State.ext_fields <;> rfl

/-- A value decoded from 66 bits is encoded back to the string in STR (40_codec.md R107). -/
theorem encodeBits_of_decodeBits_chars {s : State} {x : Value} (hlen : s.slen = 11#8) (hvalid : ValidString s 11)
    (h : decodeBits s.chars s.slen.toNat 66 = .ok x) : encodeBits x 66 = s.chars.take 11 := by
  have htake : (s.chars.take 11).length = 11 := by simp
  obtain ⟨y, hrun, -, hy⟩ := encodeOfDecodeBitsIsCanonicalString (s.chars.take 11) 66 (by decide) le_rfl htake
    fun _ => validChar_of_mem_take_chars hvalid
  rw [hlen, decodeBits_take, show charCount 66 = 11 from rfl] at h
  rw [htake] at hrun
  obtain rfl : x = y := Except.ok.inj (h.symm.trans hrun)
  exact hy rfl

/-- Settles O36: GEN packs the fields PARSE unpacked, and encodes the value PARSE decoded. -/
theorem genInvertsParse : Obligations.GenInvertsParse := by
  intro s hlen hvalid
  obtain ⟨x, hrun, -⟩ := decodeBits_chars_eq_stringNumber (n := 66) le_rfl (congrArg BitVec.toNat hlen) hvalid
  have hcode := encodeBits_of_decodeBits_chars hlen hvalid hrun
  refine ⟨_, _, execParse_of_decodeBits_eq_ok hrun, execGen_eq _, hlen.symm, ?_, fun j hj => ?_⟩
  · rw [succeed_v, State.putString_v, State.setV_v, fields_succeed_parse, pack_unpack]
    rfl
  · rw [succeed_str, State.putString_str, fields_succeed_parse, pack_unpack, hcode, strBuffer_getElem,
      List.getD_eq_getElem?_getD, List.getElem?_take_of_lt hj, ← List.getD_eq_getElem?_getD, State.chars_getD]

end Sys2Proof.Machine
end

section
/-! PROOFS. Writing part of a register (20_memory.md R53, R54): a field of V or T, and four characters of STR. What is
written reads back, the rest of the register stays, and a second write of the same changes nothing more. -/

namespace Sys2Proof.Machine

open Claims

/-! ### Part of a register -/

/-- `z` is `x` with `f` at its bits from `start` up (20_memory.md R53). -/
def IsSplice {n len : Nat} (x : BitVec n) (start : Nat) (f : BitVec len) (z : BitVec n) : Prop :=
  ∀ i, i < n → z.getLsbD i = if start ≤ i ∧ i < start + len then f.getLsbD (i - start) else x.getLsbD i

section Splice
variable {n len start : Nat} {x z : BitVec n} {f : BitVec len}

theorem IsSplice.extract_same (h : IsSplice x start f z) (hn : start + len ≤ n) : z.extractLsb' start len = f := by
  ext i hi
  rw [BitVec.getElem_extractLsb', h _ (by omega), if_pos (by omega), Nat.add_sub_cancel_left,
    BitVec.getLsbD_eq_getElem hi]

theorem IsSplice.extract_other (h : IsSplice x start f z) {a b : Nat} (hn : a + b ≤ n)
    (hab : a + b ≤ start ∨ start + len ≤ a) : z.extractLsb' a b = x.extractLsb' a b := by
  ext i hi
  rw [BitVec.getElem_extractLsb', BitVec.getElem_extractLsb', h _ (by omega), if_neg (by omega)]

/-- A second write of the same field changes nothing more. -/
theorem IsSplice.idem {u : BitVec n} (h : IsSplice x start f z) (hu : IsSplice z start f u) : u = z := by
  apply BitVec.eq_of_getLsbD_eq
  intro i hi
  rw [hu i hi, h i hi]
  split <;> rfl

end Splice

theorem isSplice_vLo (v : Value) (w : Word) : IsSplice v 0 w (v.extractLsb' 32 34 ++ w : BitVec (34 + 32)) := by
  intro i hi
  rw [BitVec.getLsbD_append, BitVec.getLsbD_extractLsb']
  grind

theorem isSplice_vMid (v : Value) (w : Word) :
    IsSplice v 32 w (v.extractLsb' 64 2 ++ w ++ v.extractLsb' 0 32 : BitVec (2 + 32 + 32)) := by
  intro i hi
  rw [BitVec.getLsbD_append, BitVec.getLsbD_append, BitVec.getLsbD_extractLsb', BitVec.getLsbD_extractLsb']
  grind

theorem isSplice_vHi (v : Value) (w : Word) :
    IsSplice v 64 (w.extractLsb' 0 2) (w.extractLsb' 0 2 ++ v.extractLsb' 0 64 : BitVec (2 + 64)) := by
  intro i hi
  rw [BitVec.getLsbD_append, BitVec.getLsbD_extractLsb', BitVec.getLsbD_extractLsb']
  grind

theorem isSplice_tLo (t : Stamp) (w : Word) : IsSplice t 0 w (t.extractLsb' 32 10 ++ w : BitVec (10 + 32)) := by
  intro i hi
  rw [BitVec.getLsbD_append, BitVec.getLsbD_extractLsb']
  grind

theorem isSplice_tHi (t : Stamp) (w : Word) :
    IsSplice t 32 (w.extractLsb' 0 10) (w.extractLsb' 0 10 ++ t.extractLsb' 0 32 : BitVec (10 + 32)) := by
  intro i hi
  rw [BitVec.getLsbD_append, BitVec.getLsbD_extractLsb', BitVec.getLsbD_extractLsb']
  grind

/-! ### Four characters of STR -/

theorem byteOfWord_wordOfBytes (f : Fin 4 → Byte) (j : Fin 4) :
    byteOfWord (wordOfBytes (f 0) (f 1) (f 2) (f 3)) j.val = f j := by
  apply BitVec.eq_of_toNat_eq
  rw [byteOfWord_toNat, wordOfBytes_byte]

theorem wordOfBytes_byteOfWord (w : Word) :
    wordOfBytes (byteOfWord w 0) (byteOfWord w 1) (byteOfWord w 2) (byteOfWord w 3) = w := by
  have hw := w.isLt
  apply BitVec.eq_of_toNat_eq
  simp only [wordOfBytes_toNat, byteOfWord_toNat]
  omega

/-- What STR holds after a host write of the word of characters `j` to `j + 3` (20_memory.md R54). -/
theorem setStrWord_getElem (s : State) (w : Word) {j : Nat} (hj : j + 3 < 16) {i : Nat} (hi : i < 16) :
    (s.setStrWord j w hj).str[i] = if j ≤ i ∧ i < j + 4 then byteOfWord w (i - j) else s.str[i] := by
  simp only [State.setStrWord, State.setStr_str, Vector.getElem_set]
  grind

theorem strWord_setStrWord_same (s : State) (w : Word) {j : Nat} (hj : j + 3 < 16) :
    (s.setStrWord j w hj).strWord j hj = w := by
  simp [State.strWord, setStrWord_getElem, wordOfBytes_byteOfWord]

theorem strWord_setStrWord_of_disjoint (s : State) (w : Word) {j k : Nat} (hj : j + 3 < 16) (hk : k + 3 < 16)
    (h : k + 3 < j ∨ j + 3 < k) : (s.setStrWord j w hj).strWord k hk = s.strWord k hk := by
  have hget {i : Nat} (hi : i < 16) (hik : k ≤ i ∧ i ≤ k + 3) : (s.setStrWord j w hj).str[i] = s.str[i] := by
    rw [setStrWord_getElem, if_neg (by omega)]
  simp only [State.strWord]
  rw [hget _ (by omega), hget _ (by omega), hget _ (by omega), hget _ (by omega)]

theorem setStrWord_idem (s : State) (w : Word) {j : Nat} (hj : j + 3 < 16) :
    (s.setStrWord j w hj).setStrWord j w hj = s.setStrWord j w hj := by
  have hstr : ((s.setStrWord j w hj).setStrWord j w hj).str = (s.setStrWord j w hj).str := by
    apply Vector.ext
    intro i hi
    rw [setStrWord_getElem, setStrWord_getElem]
    split <;> rfl
  exact congrArg s.setStr hstr

end Sys2Proof.Machine
end

section
/-! PROOFS. The register window word by word (20_memory.md R52, R53): which reads an update can change, what a write
sets and leaves, and the map's inverse. -/

namespace Sys2Proof.Machine

open Claims

/-! ### Which reads an update can change -/

section ReadReg
variable (s : State) {y : WindowReg}

theorem readReg_setStatus_of_ne (x : BitVec 8) (hy : y ≠ .status) : readReg (s.setStatus x) y = readReg s y := by
  cases y
  case status => exact absurd rfl hy
  all_goals rfl

theorem readReg_setR_of_ne (x : Rnd) (hy : y ≠ .rnd) : readReg (s.setR x) y = readReg s y := by
  cases y
  case rnd => exact absurd rfl hy
  all_goals rfl

theorem readReg_setH_of_ne (x : BitVec 1) (hy : y ≠ .hid) : readReg (s.setH x) y = readReg s y := by
  cases y
  case hid => exact absurd rfl hy
  all_goals rfl

theorem readReg_setSlen_of_ne (x : BitVec 8) (hy : y ≠ .slenR) : readReg (s.setSlen x) y = readReg s y := by
  cases y
  case slenR => exact absurd rfl hy
  all_goals rfl

/-- V is shown by its three words only. -/
theorem readReg_setV_of_eq {x : Value} (hLo : y = .vLo → x.extractLsb' 0 32 = s.v.extractLsb' 0 32)
    (hMid : y = .vMid → x.extractLsb' 32 32 = s.v.extractLsb' 32 32)
    (hHi : y = .vHi → x.extractLsb' 64 2 = s.v.extractLsb' 64 2) : readReg (s.setV x) y = readReg s y := by
  cases y
  case vLo => exact hLo rfl
  case vMid => exact hMid rfl
  case vHi => exact congrArg (BitVec.setWidth 32) (hHi rfl)
  all_goals rfl

/-- T is shown by its two words only. -/
theorem readReg_setT_of_eq {x : Stamp} (hLo : y = .tLo → x.extractLsb' 0 32 = s.t.extractLsb' 0 32)
    (hHi : y = .tHi → x.extractLsb' 32 10 = s.t.extractLsb' 32 10) : readReg (s.setT x) y = readReg s y := by
  cases y
  case tLo => exact hLo rfl
  case tHi => exact congrArg (BitVec.setWidth 32) (hHi rfl)
  all_goals rfl

/-- STR is shown by its four words only. -/
theorem readReg_setStrWord_of_ne (w : Word) {j : Nat} (hj : j + 3 < 16) (h0 : y = .str0 → 3 < j)
    (h1 : y = .str1 → 7 < j ∨ j + 3 < 4) (h2 : y = .str2 → 11 < j ∨ j + 3 < 8) (h3 : y = .str3 → j + 3 < 12) :
    readReg (s.setStrWord j w hj) y = readReg s y := by
  cases y
  case str0 => exact strWord_setStrWord_of_disjoint s w hj _ (.inl (h0 rfl))
  case str1 => exact strWord_setStrWord_of_disjoint s w hj _ (h1 rfl)
  case str2 => exact strWord_setStrWord_of_disjoint s w hj _ (h2 rfl)
  case str3 => exact strWord_setStrWord_of_disjoint s w hj _ (.inr (h3 rfl))
  all_goals rfl

/-- A write of one word changes no other word (20_memory.md R53). -/
theorem readReg_writeReg_of_ne (w : Word) {x : WindowReg} (hy : y ≠ x) : readReg (writeReg s w x) y = readReg s y := by
  cases x with
  | cmd => cases y <;> rfl
  | status | mLo | mHi | fragR | alpha _ | reserved => rfl
  | rnd => exact readReg_setR_of_ne s _ hy
  | hid => exact readReg_setH_of_ne s _ hy
  | slenR => exact readReg_setSlen_of_ne s _ hy
  | vLo =>
    have h := isSplice_vLo s.v w
    exact readReg_setV_of_eq s (absurd · hy) (fun _ => h.extract_other (by decide) (by decide))
      fun _ => h.extract_other (by decide) (by decide)
  | vMid =>
    have h := isSplice_vMid s.v w
    exact readReg_setV_of_eq s (fun _ => h.extract_other (by decide) (by decide)) (absurd · hy)
      fun _ => h.extract_other (by decide) (by decide)
  | vHi =>
    have h := isSplice_vHi s.v w
    exact readReg_setV_of_eq s (fun _ => h.extract_other (by decide) (by decide))
      (fun _ => h.extract_other (by decide) (by decide)) (absurd · hy)
  | tLo => exact readReg_setT_of_eq s (absurd · hy) fun _ => (isSplice_tLo s.t w).extract_other (by decide) (by decide)
  | tHi =>
    exact readReg_setT_of_eq s (fun _ => (isSplice_tHi s.t w).extract_other (by decide) (by decide)) (absurd · hy)
  | str0 =>
    exact readReg_setStrWord_of_ne s w _ (absurd · hy) (fun _ => by decide) (fun _ => by decide) (fun _ => by decide)
  | str1 =>
    exact readReg_setStrWord_of_ne s w _ (fun _ => by decide) (absurd · hy) (fun _ => by decide) (fun _ => by decide)
  | str2 =>
    exact readReg_setStrWord_of_ne s w _ (fun _ => by decide) (fun _ => by decide) (absurd · hy) (fun _ => by decide)
  | str3 =>
    exact readReg_setStrWord_of_ne s w _ (fun _ => by decide) (fun _ => by decide) (fun _ => by decide) (absurd · hy)

end ReadReg

/-! ### The word written -/

/-- The bits a host write of each word sets, `rwMask` by register (20_memory.md R52). -/
def rwFields : WindowReg → Option Word
  | .vLo | .vMid | .tLo | .str0 | .str1 | .str2 | .str3 => some 0xFFFFFFFF#32
  | .vHi => some 0x00000003#32
  | .tHi => some 0x000003FF#32
  | .rnd => some 0x007FFFFF#32
  | .hid => some 0x00000001#32
  | .slenR => some 0x000000FF#32
  | .cmd | .status | .mLo | .mHi | .fragR | .alpha _ | .reserved => none

/-- The low `k` bits of a word as a mask leaves them. -/
theorem setWidth_extract_eq_and (w : Word) {k : Nat} (hk : k ≤ 32) :
    (w.extractLsb' 0 k).setWidth 32 = w &&& BitVec.ofNat 32 (2 ^ k - 1) := by
  have hw := w.isLt
  have hpow : 2 ^ k ≤ 2 ^ 32 := Nat.pow_le_pow_right (by decide) hk
  have hlt := Nat.mod_lt w.toNat (Nat.two_pow_pos k)
  apply BitVec.eq_of_toNat_eq
  rw [BitVec.toNat_and, BitVec.toNat_ofNat, Nat.mod_eq_of_lt (by omega), Nat.and_two_pow_sub_one_eq_mod,
    BitVec.toNat_setWidth, Bits.extract_toNat, Nat.pow_zero, Nat.div_one, Nat.mod_eq_of_lt (by omega)]

/-- A word written reads back with its named fields only (20_memory.md R53). -/
theorem readReg_writeReg_same (s : State) (w : Word) {x : WindowReg} {m : Word} (h : rwFields x = some m) :
    readReg (writeReg s w x) x = w &&& m := by
  have hall : w &&& 0xFFFFFFFF#32 = w := BitVec.and_allOnes
  cases x <;> cases h
  case vLo => exact ((isSplice_vLo s.v w).extract_same (by decide)).trans hall.symm
  case vMid => exact ((isSplice_vMid s.v w).extract_same (by decide)).trans hall.symm
  case tLo => exact ((isSplice_tLo s.t w).extract_same (by decide)).trans hall.symm
  case str0 | str1 | str2 | str3 => exact (strWord_setStrWord_same s w _).trans hall.symm
  case vHi =>
    exact (congrArg _ ((isSplice_vHi s.v w).extract_same (by decide))).trans (setWidth_extract_eq_and w (by decide))
  case tHi =>
    exact (congrArg _ ((isSplice_tHi s.t w).extract_same (by decide))).trans (setWidth_extract_eq_and w (by decide))
  case rnd | hid | slenR => exact setWidth_extract_eq_and w (by decide)

/-- A second write of one word to one place changes nothing more (20_memory.md R58). -/
theorem writeReg_idem (s : State) (w : Word) (x : WindowReg) : writeReg (writeReg s w x) w x = writeReg s w x := by
  cases x with
  | vLo => exact congrArg s.setV ((isSplice_vLo s.v w).idem (isSplice_vLo _ w))
  | vMid => exact congrArg s.setV ((isSplice_vMid s.v w).idem (isSplice_vMid _ w))
  | vHi => exact congrArg s.setV ((isSplice_vHi s.v w).idem (isSplice_vHi _ w))
  | tLo => exact congrArg s.setT ((isSplice_tLo s.t w).idem (isSplice_tLo _ w))
  | tHi => exact congrArg s.setT ((isSplice_tHi s.t w).idem (isSplice_tHi _ w))
  | str0 | str1 | str2 | str3 => exact setStrWord_idem s w _
  | cmd | status | rnd | hid | mLo | mHi | slenR | fragR | alpha _ | reserved => rfl

/-! ### Offsets -/

/-- Each word but the alphabet's and the reserved ones stands at its own offset only (20_memory.md R52). -/
theorem offsetOf_windowReg (off : Nat) :
    offsetOf (windowReg off) = some off ∨ (∃ j, windowReg off = .alpha j ∧ 0x80 ≤ off ∧ off ≤ 0xBC) ∨
      windowReg off = .reserved := by
  unfold windowReg
  split
  case h_18 =>
    split
    next hrange => exact .inr (.inl ⟨_, rfl, hrange⟩)
    next => exact .inr (.inr rfl)
  all_goals exact .inl rfl

/-- The RW words of the claims, by register. -/
theorem rwMask_eq_some {off : Nat} {m : Word} (h : rwMask off = some m) :
    rwFields (windowReg off) = some m ∧ offsetOf (windowReg off) = some off ∧ off < 256 ∧ off % 4 = 0 ∧ off ≠ 0 := by
  unfold rwMask at h
  split at h
  case h_13 => cases h
  all_goals
    cases h
    decide

/-- No other offset is the place of an RW word. -/
theorem eq_of_windowReg_eq {off off' : Nat} {m : Word} (h : rwMask off = some m)
    (heq : windowReg off' = windowReg off) : off' = off := by
  obtain ⟨hrw, hoff, -⟩ := rwMask_eq_some h
  rw [← heq] at hrw hoff
  obtain hoff' | ⟨j, halpha, -⟩ | hreserved := offsetOf_windowReg off'
  · exact Option.some.inj (hoff'.symm.trans hoff)
  · rw [halpha] at hrw
    cases hrw
  · rw [hreserved] at hrw
    cases hrw

/-- A write of a word that is neither RW nor CMD is ignored (20_memory.md R58). -/
theorem writeWord_of_rwMask_eq_none (s : State) {off : Nat} (w : Word) (hoff : off ≠ 0) (h : rwMask off = none) :
    writeWord s off w = s := by
  unfold writeWord
  obtain hreg | ⟨j, halpha, -⟩ | hreserved := offsetOf_windowReg off
  · generalize windowReg off = x at hreg
    cases x with
    | cmd => exact absurd (Option.some.inj hreg).symm hoff
    | status | mLo | mHi | fragR | alpha _ => rfl
    | reserved => cases hreg
    | vLo | vMid | vHi | tLo | tHi | rnd | hid | slenR | str0 | str1 | str2 | str3 =>
      cases hreg
      cases h
  · rw [halpha, writeReg]
  · rw [hreserved, writeReg]

end Sys2Proof.Machine
end

section
/-! PROOFS. The host port access by access: what a step does with a read, with a write of a word other than CMD, and
with an access outside the contract (20_memory.md R50 to R58). -/

namespace Sys2Proof.Machine

open Claims

/-! ### One access -/

/-- A 32-bit access in the window goes through when its offset is a multiple of 4 (20_memory.md R56). -/
theorem atOffset_base_add (s : State) {off : Nat} (k : Nat → Host.Outcome State Fault Refusal) (h : off < 256) :
    atOffset s (s.base + off) k = if off % 4 = 0 then k off else .refused .misalignedAccess := by
  rw [atOffset, windowOffset_base_add s.base off h]

theorem atOffset_outside {s : State} {addr : Nat} (k : Nat → Host.Outcome State Fault Refusal)
    (h : addr < s.base ∨ s.base + 256 ≤ addr) : atOffset s addr k = .fault .outsideWindow := by
  rw [atOffset, windowOffset_eq_none.2 h]

theorem otherWidthAccess_base_add (s : State) {off : Nat} (h : off < 256) :
    otherWidthAccess s (s.base + off) = .refused .unsupportedWidth := by
  rw [otherWidthAccess, windowOffset_base_add s.base off h]

theorem otherWidthAccess_outside {s : State} {addr : Nat} (h : addr < s.base ∨ s.base + 256 ≤ addr) :
    otherWidthAccess s addr = .fault .outsideWindow := by
  rw [otherWidthAccess, windowOffset_eq_none.2 h]

/-- A supported read answers its word and changes nothing else (20_memory.md R58). -/
theorem step_of_read {s : State} {off : Nat} {rest : List HostEvent} (hoff : off < 256) (h4 : off % 4 = 0)
    (h : s.pending = .read (s.base + off) :: rest) :
    step s = .next ((s.setPending rest).reply (readWord s off)) := by
  rw [step_cons h, perform]
  refine (atOffset_base_add (s.setPending rest) _ hoff).trans ((if_pos h4).trans ?_)
  rw [hostRead, readWord_setPending]

/-- A supported write of a word other than CMD only writes the word (20_memory.md R58). -/
theorem step_of_write_word {s : State} {off : Nat} {w : Word} {rest : List HostEvent} (hoff : off < 256)
    (h4 : off % 4 = 0) (h0 : off ≠ 0) (h : s.pending = .write (s.base + off) w :: rest) :
    step s = .next ((writeWord s off w).setPending rest) := by
  rw [step_cons h, perform]
  refine (atOffset_base_add (s.setPending rest) _ hoff).trans ((if_pos h4).trans ?_)
  rw [hostWrite_of_ne_zero _ w h0, writeWord, writeReg_setPending, writeWord]

/-- What a write of a word other than CMD leaves alone: the platform's part and the registers no host write sets
(20_memory.md R52). -/
theorem writeWord_keeps (s : State) {off : Nat} (w : Word) (h : off ≠ 0) :
    (writeWord s off w).cmd = s.cmd ∧ (writeWord s off w).status = s.status ∧ (writeWord s off w).m = s.m ∧
      (writeWord s off w).frag = s.frag ∧ (writeWord s off w).base = s.base ∧
      (writeWord s off w).pending = s.pending ∧ (writeWord s off w).replies = s.replies := by
  obtain ⟨v, t, r, k, n, c, heq⟩ := writeWord_frame s w h
  rw [heq]
  exact ⟨rfl, rfl, rfl, rfl, rfl, rfl, rfl⟩

/-! ### Reads of the registers -/

/-- The words of STR show its characters in order (20_memory.md R54). -/
theorem readWord_str (s : State) (k : Fin 4) :
    readWord s (0x30 + 4 * k.val) = s.strWord (4 * k.val) (by omega) := by
  fin_cases k <;> rfl

/-- STATUS reads as its two fields (20_memory.md R52). -/
theorem readWord_status_toNat (s : State) : (readWord s 0x04).toNat = s.err.toNat + 16 * s.errIdx.toNat := by
  have hread (i : BitVec 4) (e : BitVec 2) :
      (i.setWidth 32 <<< 4 ||| e.setWidth 32).toNat = e.toNat + 16 * i.toNat := by
    revert i e
    decide
  exact hread s.errIdx s.err

/-- Settles O42: each word is a field of its register, and the fields make up the register. -/
theorem windowReadsShowTheRegisters : Obligations.WindowReadsShowTheRegisters := by
  intro s
  have hv := s.v.isLt
  have ht := s.t.isLt
  have hm := s.m.isLt
  refine ⟨?_, ?_, ?_, ?_, ?_, ?_, readWord_status_toNat s, fun j => ?_, fun j => ?_⟩
  · simp only [readWord, windowReg, readReg, BitVec.toNat_setWidth, Bits.extract_toNat]
    omega
  · simp only [readWord, windowReg, readReg, BitVec.toNat_setWidth, Bits.extract_toNat]
    omega
  · simp only [readWord, windowReg, readReg, BitVec.toNat_setWidth, Bits.extract_toNat]
    omega
  · exact BitVec.toNat_setWidth_of_le (by decide)
  · exact BitVec.toNat_setWidth_of_le (by decide)
  · exact BitVec.toNat_setWidth_of_le (by decide)
  · have hword := readWord_str s ⟨j.val / 4, by omega⟩
    have hbyte := wordOfBytes_byte (fun k => s.str[4 * (j.val / 4) + k.val]) ⟨j.val % 4, by omega⟩
    simp only [Nat.div_add_mod] at hword hbyte
    rw [hword]
    exact hbyte.symm
  · exact (wordOfBytes_byte (fun k => s.frag[k]) j).symm

/-- Settles O43: these offsets are CMD's or reserved. -/
theorem commandAndReservedWordsReadZero : Obligations.CommandAndReservedWordsReadZero := by
  intro s off hlt h4 hoff
  have hreg : windowReg off = .cmd ∨ windowReg off = .reserved := by
    obtain hreg | ⟨j, -, hrange⟩ | hreserved := offsetOf_windowReg off
    · generalize windowReg off = x at hreg ⊢
      cases x with
      | cmd => exact .inl rfl
      | reserved => exact .inr rfl
      | alpha j =>
        have hj := Option.some.inj hreg
        omega
      | _ =>
        have hword := Option.some.inj hreg
        omega
    · omega
    · exact .inr hreserved
  obtain hcmd | hreserved := hreg
  · rw [readWord, hcmd, readReg]
  · rw [readWord, hreserved, readReg]

/-- Settles O16: of the window's words only STATUS shows STATUS. -/
theorem nopClearsStatusOnly : Obligations.NopClearsStatusOnly := by
  refine fun s => ⟨succeed s, execNop_eq s, rfl, ?_, fun off hoff => ?_⟩
  · apply BitVec.eq_of_toNat_eq
    rw [readWord_status_toNat, State.err, State.errIdx, succeed_status]
    rfl
  · exact readReg_setStatus_of_ne s _ fun h => hoff (windowReg_eq_status.1 h)

/-! ### Host accesses -/

/-- Settles O44: the word written shows its named fields, and every other word stands elsewhere. -/
theorem hostWriteSetsItsFieldsOnly : Obligations.HostWriteSetsItsFieldsOnly := by
  intro s off w mask rest hpending hmask
  obtain ⟨hrw, -, hlt, h4, h0⟩ := rwMask_eq_some hmask
  refine ⟨_, step_of_write_word hlt h4 h0 hpending, ?_, fun off' hne => ?_, ?_⟩
  · rw [readWord_setPending]
    exact readReg_writeReg_same s w hrw
  · rw [readWord_setPending]
    exact readReg_writeReg_of_ne s w fun heq => hne (eq_of_windowReg_eq hmask heq)
  · obtain ⟨v, t, r, k, n, c, heq⟩ := writeWord_frame s w h0
    rw [heq]
    rfl

/-- Settles O45. -/
theorem onlyCommandWritesHaveSideEffects : Obligations.OnlyCommandWritesHaveSideEffects := by
  refine ⟨fun s off rest hlt h4 hpending => step_of_read hlt h4 hpending, fun s => rfl,
    fun s off w rest hlt h4 h0 hmask hpending => ?_, fun s off w rest hlt h4 h0 hpending => ?_⟩
  · rw [step_of_write_word hlt h4 h0 hpending, writeWord_of_rwMask_eq_none s w h0 hmask, State.setPending]
  · obtain ⟨-, -, -, -, hbase, -⟩ := writeWord_keeps s w h0
    have hagain : ((writeWord s off w).setPending (.write (s.base + off) w :: rest)).pending =
        .write (((writeWord s off w).setPending (.write (s.base + off) w :: rest)).base + off) w :: rest := by
      rw [State.setPending_pending, State.setPending_base, hbase]
    refine ⟨_, step_of_write_word hlt h4 h0 hpending, ?_⟩
    rw [step_of_write_word hlt h4 h0 hagain]
    simp only [writeWord, writeReg_setPending, writeReg_idem]
    rfl

/-- Settles O46: T_LO takes bits 31:0 of the count and T_HI bits 41:32. -/
theorem millisecondCountWraps : Obligations.MillisecondCountWraps := by
  intro s count rest hpending
  refine ⟨_, _, step_of_write_word (by decide) (by decide) (by decide) hpending,
    step_of_write_word (off := 0x18) (by decide) (by decide) (by decide) rfl, ?_, rfl⟩
  have ht (t : Stamp) (lo hi : Word) :
      (hi.extractLsb' 0 10 ++ (t.extractLsb' 32 10 ++ lo : BitVec (10 + 32)).extractLsb' 0 32).toNat =
        hi.toNat % 2 ^ 10 * 2 ^ 32 + lo.toNat := by
    rw [(isSplice_tLo t lo).extract_same (by decide), Bits.append_toNat, Bits.extract_toNat, Nat.pow_zero, Nat.div_one]
  refine (ht s.t _ _).trans ?_
  rw [BitVec.toNat_ofNat, BitVec.toNat_ofNat]
  omega

/-- Settles O47: inside the window the width is looked at, then the alignment. -/
theorem unsupportedAccessIsRefused : Obligations.UnsupportedAccessIsRefused := by
  refine ⟨fun s kind width off rest hlt h => ?_, fun s off w rest hlt h4 => ⟨fun h => ?_, fun h => ?_⟩⟩
  · rw [step_cons h, perform]
    exact otherWidthAccess_base_add (s.setPending rest) hlt
  all_goals
    rw [step_cons h, perform]
    exact (atOffset_base_add (s.setPending rest) _ hlt).trans (if_neg h4)

/-- Settles O48: an access outside the window has no offset. -/
theorem accessOutsideWindowFaults : Obligations.AccessOutsideWindowFaults := by
  intro s addr w kind width rest hout
  refine ⟨fun h => ?_, fun h => ?_, fun h => ?_⟩
  all_goals rw [step_cons h, perform]
  · exact atOffset_outside (s := s.setPending rest) _ hout
  · exact atOffset_outside (s := s.setPending rest) _ hout
  · exact otherWidthAccess_outside (s := s.setPending rest) hout

/-- Settles O53: with no event pending the step is one to the same state. -/
theorem blockIsQuiescentWithoutEvents : Obligations.BlockIsQuiescentWithoutEvents := by
  intro s h
  rw [step, performNext, h]

/-! ### The fragment decodes to the random field -/

/-- A host that copies FRAG_R to STR0 has FRAG at the start of STR (20_memory.md R54). -/
theorem chars_of_copied_fragment (s : State) :
    (writeWord s 0x30 (readWord s 0x40)).chars.take 4 = s.frag.toList := by
  have hbyte (j : Fin 4) : byteOfWord (readWord s 0x40) j.val = s.frag[j] :=
    byteOfWord_wordOfBytes (fun j => s.frag[j]) j
  apply List.ext_getElem
  · simp
  · intro i hi _
    rw [List.length_take, Nat.lt_min] at hi
    obtain ⟨hi, -⟩ := hi
    rw [List.getElem_take, Vector.getElem_toList]
    refine (setStrWord_getElem s (readWord s 0x40) (j := 0) (by decide) (by omega)).trans ?_
    rw [if_pos (by omega)]
    exact hbyte ⟨i, hi⟩

/-- A fragment decodes to its random field (43_parser.md R175). -/
theorem decodeBits_fragmentOf (r : Rnd) : decodeBits (fragmentOf r).toList 4 23 = .ok (r.setWidth 66) := by
  have hr := r.isLt
  obtain ⟨u, hrun, hu⟩ := decodeOfEncodeBitsIsValue (r.setWidth 66) 23 (by decide) (by decide)
  rw [rnd_setWidth_toNat, Nat.mod_eq_of_lt hr, ← rnd_setWidth_toNat] at hu
  rw [BitVec.eq_of_toNat_eq hu] at hrun
  rw [fragmentOf_toList]
  exact hrun

/-- DEC 23 of the copied fragment succeeds with its random field (43_parser.md R175). -/
theorem exec_dec23_of_copied_fragment {t : State} (h : t.frag = fragmentOf t.r) :
    ∃ u, exec (.dec 23#7) (writeWord (writeWord t 0x30 (readWord t 0x40)) 0x2C 4#32) = .next u ∧ u.status = 0#8 ∧
      u.v = t.r.setWidth 66 := by
  have hchars : (writeWord (writeWord t 0x30 (readWord t 0x40)) 0x2C 4#32).chars.take (charCount 23) =
      (fragmentOf t.r).toList := (chars_of_copied_fragment t).trans (congrArg Vector.toList h)
  have hslen : (writeWord (writeWord t 0x30 (readWord t 0x40)) 0x2C 4#32).slen.toNat = 4 := rfl
  refine ⟨_, execDec_of_decodeBits_eq_ok (x := t.r.setWidth 66) (by decide) ?_, rfl, rfl⟩
  rw [hslen, show (23#7).toNat = 23 from rfl, decodeBits_take, hchars, decodeBits_fragmentOf]

/-- Settles O37: the copied string is the fragment PARSE wrote, whose value is R. -/
theorem fragmentDecodesToRandomField : Obligations.FragmentDecodesToRandomField := by
  intro s hlen hvalid
  obtain ⟨x, -, hparse⟩ := execParse_of_validString hlen hvalid
  obtain ⟨u, hdec, hstatus, hv⟩ := exec_dec23_of_copied_fragment
    (t := succeed (((s.setV x).putFields (unpack x)).setFrag (fragmentOf (unpack x).r))) rfl
  refine ⟨_, u, hparse, hdec, hstatus, ?_⟩
  rw [hv, rnd_setWidth_toNat]

end Sys2Proof.Machine
end

section
/-! PROOFS. How every command ends: in success, with the registers of its row written, or in an error, with STATUS
written (30_encoding.md R72, 60_exceptions.md R190 to R193). -/

namespace Sys2Proof.Machine

open Claims

/-! ### STATUS -/

theorem statusBits_errIdx (i : BitVec 4) (e : BitVec 2) : (statusBits i e).extractLsb' 4 4 = i := by
  have hi := i.isLt
  have he := e.isLt
  apply BitVec.eq_of_toNat_eq
  rw [Bits.extract_toNat, statusBits_toNat]
  omega

theorem statusBits_reserved (i : BitVec 4) (e : BitVec 2) : (statusBits i e).extractLsb' 2 2 = 0#2 := by
  have he := e.isLt
  apply BitVec.eq_of_toNat_eq
  rw [Bits.extract_toNat, statusBits_toNat, BitVec.toNat_zero]
  omega

theorem statusLegal_statusOk : StatusLegal statusOk := by decide

/-- The errors of the commands make legal STATUS values: a string has at most 11 characters (10_state.md R31). -/
theorem statusLegal_statusOfError {e : CommandError} (h : ∀ j, e = .invalidCharacter j → j ≤ 10) :
    StatusLegal (statusOfError e) := by
  cases e with
  | invalidLength | illegalCommand => decide
  | invalidCharacter j =>
    have hj := h j rfl
    refine ⟨statusBits_reserved _ _, fun herr => absurd (statusBits_err _ _) herr, ?_⟩
    rw [statusOfError, statusBits_errIdx, BitVec.toNat_ofNat]
    omega

theorem statusLegal_of_decodeBits_eq_error {cs : List Byte} {len n : Nat} {e : CommandError} (hn : n ≤ 66)
    (h : decodeBits cs len n = .error e) : StatusLegal (statusOfError e) := by
  apply statusLegal_statusOfError
  rintro j rfl
  obtain hlength | ⟨k, hk, hjk⟩ := decodeBits_eq_error h
  · cases hlength
  · cases hjk
    have hcount := charCount_le hn
    omega

/-! ### The two ends of a command -/

/-- All that a command `i` does from `s`: it succeeds and writes registers of its row only, or it raises an error. -/
def CommandEnds (i : Instr) (s : State) (o : Host.Outcome State Fault Refusal) : Prop :=
  (∃ t, o = .next (succeed t) ∧ ChangesOnlyWrites i s (succeed t)) ∨
    ∃ e, o = .next (raise e s) ∧ StatusLegal (statusOfError e)

theorem commandEnds_succeed {i : Instr} {s t : State} (h : ChangesOnlyWrites i s (succeed t)) :
    CommandEnds i s (.next (succeed t)) := .inl ⟨t, rfl, h⟩

theorem commandEnds_illegal (i : Instr) (s : State) : CommandEnds i s (.next (raise .illegalCommand s)) :=
  .inr ⟨.illegalCommand, rfl, by decide⟩

/-- A command that ends with what the codec answers. -/
theorem commandEnds_finish {i : Instr} {s : State} {cs : List Byte} {len n : Nat} {f : Value → State} (hn : n ≤ 66)
    (h : ∀ x, ChangesOnlyWrites i s (succeed (f x))) : CommandEnds i s (.next (finish (decodeBits cs len n) s f)) := by
  obtain ⟨x, -, hfinish⟩ | ⟨e, he, hfinish⟩ := finish_cases (decodeBits cs len n) s f
  · exact .inl ⟨f x, congrArg _ hfinish, h x⟩
  · exact .inr ⟨e, congrArg _ hfinish, statusLegal_of_decodeBits_eq_error hn he⟩

theorem exec_commandEnds (i : Instr) (s : State) : CommandEnds i s (exec i s) := by
  cases i with
  | nop => exact commandEnds_succeed rfl
  | enc n =>
    by_cases hn : BitCountOk n
    · rw [exec, execEnc_of_ok s hn]
      exact commandEnds_succeed (succeed_putString s _ _)
    · rw [exec, execEnc_of_not_ok s hn]
      exact commandEnds_illegal _ s
  | dec n =>
    by_cases hn : BitCountOk n
    · rw [exec, execDec_of_ok s hn]
      exact commandEnds_finish hn.2 (succeed_setV s)
    · rw [exec, execDec_of_not_ok s hn]
      exact commandEnds_illegal _ s
  | stretch => exact commandEnds_succeed (succeed_setM s _)
  | pack => exact commandEnds_succeed (succeed_setV s _)
  | unpack => exact commandEnds_succeed (succeed_putFields s _)
  | gen => exact commandEnds_succeed (succeed_setV_putString s _ _ _)
  | parse => exact commandEnds_finish le_rfl fun x => succeed_parse s x _ _

theorem changesOnlyWrites_raise (i : Instr) (e : CommandError) (s : State) : ChangesOnlyWrites i s (raise e s) := by
  cases i <;> exact raise_eq e s

/-- Settles O39: an error writes STATUS, which is in every command's row. -/
theorem commandsWriteOnlyTheirDestinations : Obligations.CommandsWriteOnlyTheirDestinations := by
  intro i s t h
  obtain ⟨u, hrun, hwrites⟩ | ⟨e, hrun, -⟩ := exec_commandEnds i s
  · cases hrun.symm.trans h
    exact hwrites
  · cases hrun.symm.trans h
    exact changesOnlyWrites_raise i e s

/-- CMD, BASE and the host port stand in no command's row (30_encoding.md R72). -/
theorem keeps_of_changesOnlyWrites {i : Instr} {s t : State} (h : ChangesOnlyWrites i s t) :
    t.cmd = s.cmd ∧ t.base = s.base ∧ t.pending = s.pending ∧ t.replies = s.replies := by
  cases i
  all_goals
    have hframe : t = _ := h
    rw [hframe]
    exact ⟨rfl, rfl, rfl, rfl⟩

/-- Settles O38: both ends of a command write a legal STATUS. -/
theorem everyCommandCompletesWithLegalStatus : Obligations.EveryCommandCompletesWithLegalStatus := by
  intro i s
  obtain ⟨t, hrun, hwrites⟩ | ⟨e, hrun, hlegal⟩ := exec_commandEnds i s
  · exact ⟨_, hrun, statusLegal_statusOk, keeps_of_changesOnlyWrites hwrites⟩
  · exact ⟨_, hrun, hlegal, keeps_of_changesOnlyWrites (changesOnlyWrites_raise i e s)⟩

/-! ### Command words -/

/-- Settles O4: the command completes, and then CMD is cleared. -/
theorem stepRunsDecodedCommand : Obligations.StepRunsDecodedCommand := by
  intro s w rest i hpending hdecode
  obtain ⟨t, hrun, -⟩ := everyCommandCompletesWithLegalStatus i ((s.setPending rest).setCmd w)
  refine ⟨t, hrun, ?_⟩
  rw [step_of_write_legal hpending hdecode, hrun, completeCommand_next, State.setCmd]

/-- An error raised with a command word in CMD leaves a block that was idle as it was, but for STATUS. -/
theorem setCmd_raise_setCmd {s : State} (hcmd : s.cmd = 0#32) (e : CommandError) (w : Word) (rest : List HostEvent) :
    (raise e ((s.setPending rest).setCmd w)).setCmd 0#32 =
      { s with pending := rest, status := statusOfError e } := by
  rw [raise_eq, ← hcmd]
  rfl

theorem err_setCmd_succeed (t : State) (w : Word) : ((succeed t).setCmd w).err = 0#2 := by
  rw [State.err, State.setCmd_status, succeed_status]
  rfl

/-- Settles O40: a command that ends with ERR not 0 has not succeeded, so it only raised an error. -/
theorem failedCommandWritesStatusOnly : Obligations.FailedCommandWritesStatusOnly := by
  intro s t w rest hpending hcmd hstep herr
  cases hdecode : decode w with
  | ok i =>
    rw [step_of_write_legal hpending hdecode] at hstep
    obtain ⟨u, hrun, -⟩ | ⟨e, hrun, -⟩ := exec_commandEnds i ((s.setPending rest).setCmd w)
    · rw [hrun, completeCommand_next] at hstep
      cases hstep
      exact absurd (err_setCmd_succeed u _) herr
    · rw [hrun, completeCommand_next] at hstep
      cases hstep
      exact setCmd_raise_setCmd hcmd e w rest
  | error x =>
    rw [step_of_write_illegal hpending hdecode] at hstep
    cases hstep
    exact setCmd_raise_setCmd hcmd .illegalCommand w rest

end Sys2Proof.Machine
end

section
/-! PROOFS. One step of the block, said once: which events end in a next state, and in which (20_memory.md R50 to R61).
From it, what holds along every run: programs within the contract complete, reads see what commands left, and the
invariant is kept (10_state.md R27, R30, R31; 70_reset_and_hazards.md R222, R223, R229). -/

namespace Sys2Proof.Machine

open Claims

/-! ### One step -/

/-- What the event `e`, taken off the queue with `rest` behind it, makes of `s`: the five ways to a next state. -/
inductive StepEffect (s : State) (rest : List HostEvent) : HostEvent → State → Prop where
  /-- A supported read (20_memory.md R58). -/
  | read {off : Nat} (hoff : off < 256) (h4 : off % 4 = 0) :
    StepEffect s rest (.read (s.base + off)) ((s.setPending rest).reply (readWord s off))
  /-- A write of a legal command word (30_encoding.md R70). -/
  | command {w : Word} {i : Instr} {t : State} (hdecode : decode w = .ok i)
    (hexec : exec i ((s.setPending rest).setCmd w) = .next t) :
    StepEffect s rest (.write s.base w) (t.setCmd 0#32)
  /-- A write of an illegal command word (60_exceptions.md R192). -/
  | illegal {w : Word} {x : DecodeReject} (hdecode : decode w = .error x) :
    StepEffect s rest (.write s.base w) ((raise .illegalCommand ((s.setPending rest).setCmd w)).setCmd 0#32)
  /-- A supported write of another word (20_memory.md R58). -/
  | write {off : Nat} {w : Word} (hoff : off < 256) (h4 : off % 4 = 0) (h0 : off ≠ 0) :
    StepEffect s rest (.write (s.base + off) w) ((writeWord s off w).setPending rest)
  /-- The reset input (70_reset_and_hazards.md R222). -/
  | reset : StepEffect s rest .reset (platformReset (s.setPending rest))

theorem accessInContract_iff {base addr : Nat} :
    accessInContract base addr = true ↔ ∃ off, addr = base + off ∧ off < 256 ∧ off % 4 = 0 := by
  rw [accessInContract, decide_eq_true_iff, Config.windowBytes]
  constructor
  · rintro ⟨h1, h2, h3⟩
    exact ⟨addr - base, by omega, by omega, h3⟩
  · rintro ⟨off, rfl, h2, h3⟩
    refine ⟨by omega, by omega, ?_⟩
    rwa [Nat.add_sub_cancel_left]

/-- A write to CMD takes a step, whatever the word (60_exceptions.md R190, R192). -/
theorem stepEffect_of_write_cmd {s : State} {w : Word} {rest : List HostEvent}
    (h : s.pending = .write s.base w :: rest) : ∃ t, step s = .next t ∧ StepEffect s rest (.write s.base w) t := by
  cases hdecode : decode w with
  | ok i =>
    obtain ⟨t, hexec, -⟩ := everyCommandCompletesWithLegalStatus i ((s.setPending rest).setCmd w)
    exact ⟨_, by rw [step_of_write_legal h hdecode, hexec, completeCommand_next], .command hdecode hexec⟩
  | error x => exact ⟨_, step_of_write_illegal h hdecode, .illegal hdecode⟩

/-- An event within the contract takes a step. -/
theorem stepEffect_of_inContract {s : State} {e : HostEvent} {rest : List HostEvent} (h : s.pending = e :: rest)
    (hc : inContract s.base e = true) : ∃ t, step s = .next t ∧ StepEffect s rest e t := by
  cases e with
  | read addr =>
    obtain ⟨off, rfl, hlt, h4⟩ := accessInContract_iff.1 hc
    exact ⟨_, step_of_read hlt h4 h, .read hlt h4⟩
  | write addr w =>
    obtain ⟨off, rfl, hlt, h4⟩ := accessInContract_iff.1 hc
    by_cases h0 : off = 0
    · subst h0
      exact stepEffect_of_write_cmd h
    · exact ⟨_, step_of_write_word hlt h4 h0 h, .write hlt h4 h0⟩
  | otherWidth => cases hc
  | reset => exact ⟨_, step_of_reset h, .reset⟩

/-- A 32-bit access that ends in a next state is within the contract. -/
theorem accessInContract_of_atOffset_eq_next {s t : State} {addr : Nat} {k : Nat → Host.Outcome State Fault Refusal}
    (h : atOffset s addr k = .next t) : accessInContract s.base addr = true := by
  obtain ⟨-, hfault⟩ | ⟨off, -, -, -, hrefused⟩ | ⟨off, haddr, hlt, h4, -⟩ := atOffset_cases s addr k
  · cases hfault.symm.trans h
  · cases hrefused.symm.trans h
  · exact accessInContract_iff.2 ⟨off, haddr, hlt, h4⟩

/-- An event that ends in a next state is within the contract. -/
theorem inContract_of_step_eq_next {s t : State} {e : HostEvent} {rest : List HostEvent} (h : s.pending = e :: rest)
    (hstep : step s = .next t) : inContract s.base e = true := by
  rw [step_cons h] at hstep
  cases e with
  | read addr => exact accessInContract_of_atOffset_eq_next hstep
  | write addr w => exact accessInContract_of_atOffset_eq_next hstep
  | otherWidth kind width addr =>
    rw [perform, otherWidthAccess] at hstep
    split at hstep <;> cases hstep
  | reset => rfl

/-- All that one step can do. -/
theorem stepEffect_of_step_eq_next {s t : State} {e : HostEvent} {rest : List HostEvent} (h : s.pending = e :: rest)
    (hstep : step s = .next t) : StepEffect s rest e t := by
  obtain ⟨u, hu, heffect⟩ := stepEffect_of_inContract h (inContract_of_step_eq_next h hstep)
  cases hu.symm.trans hstep
  exact heffect

/-- Settles O49. -/
theorem stepStopsOnlyOutsideTheContract : Obligations.StepStopsOnlyOutsideTheContract := by
  intro s e rest hpending
  constructor
  · rintro ⟨t, hstep⟩
    exact inContract_of_step_eq_next hpending hstep
  · intro hc
    obtain ⟨t, hstep, -⟩ := stepEffect_of_inContract hpending hc
    exact ⟨t, hstep⟩

/-! ### Runs -/

/-- Every step takes one event off the queue, leaves BASE, and answers a reply for a read only (20_memory.md R61). -/
theorem StepEffect.port {s t : State} {e : HostEvent} {rest : List HostEvent} (h : StepEffect s rest e t) :
    t.pending = rest ∧ t.base = s.base ∧ t.replies.length = s.replies.length + ([e].filter isRead).length := by
  cases h with
  | read => exact ⟨rfl, rfl, List.length_append⟩
  | command hdecode hexec =>
    obtain ⟨-, hbase, hpending, hreplies⟩ :=
      keeps_of_changesOnlyWrites (commandsWriteOnlyTheirDestinations _ _ _ hexec)
    exact ⟨hpending, hbase, congrArg List.length hreplies⟩
  | illegal => exact ⟨rfl, rfl, rfl⟩
  | @write off w hoff h4 h0 =>
    obtain ⟨-, -, -, -, hbase, -, hreplies⟩ := writeWord_keeps s w h0
    exact ⟨rfl, hbase, congrArg List.length hreplies⟩
  | reset => exact ⟨rfl, rfl, rfl⟩

/-- Settles O50, by induction on the events still to perform. -/
theorem hostProgramsInContractComplete : Obligations.HostProgramsInContractComplete := by
  intro s
  generalize hes : s.pending = es
  induction es generalizing s with
  | nil => exact fun _ => ⟨s, rfl, hes, rfl, rfl⟩
  | cons e rest ih =>
    intro hsafe
    rw [SafeProgram, hes, List.forall_mem_cons] at hsafe
    obtain ⟨he, hrest⟩ := hsafe
    obtain ⟨t, hstep, heffect⟩ := stepEffect_of_inContract hes he
    obtain ⟨hpending, hbase, hreplies⟩ := heffect.port
    obtain ⟨u, hrun, hempty, hbaseEnd, hrepliesEnd⟩ := ih t hpending (by rwa [SafeProgram, hpending, hbase])
    refine ⟨u, (core_run_of_next _ hstep).trans hrun, hempty, hbaseEnd.trans hbase, ?_⟩
    rw [hrepliesEnd, hreplies, Nat.add_assoc, ← List.length_append, ← List.filter_append, List.singleton_append]

/-- Settles O52: of the five steps only a command, an illegal word and a reset write these registers. -/
theorem readOnlyRegistersChangeOnlyByCommandOrReset : Obligations.ReadOnlyRegistersChangeOnlyByCommandOrReset := by
  intro s t e rest hpending hstep hcmd hreset
  cases stepEffect_of_step_eq_next hpending hstep with
  | read => exact ⟨rfl, rfl, rfl⟩
  | command => exact absurd rfl (hcmd _)
  | illegal => exact absurd rfl (hcmd _)
  | @write off w hoff h4 h0 =>
    obtain ⟨-, hstatus, hm, hfrag, -⟩ := writeWord_keeps s w h0
    exact ⟨hstatus, hm, hfrag⟩
  | reset => exact absurd rfl hreset

/-- Ending with a result, from a state that differs in the host port and in CMD. -/
theorem finish_setPending_setCmd {x : Except CommandError Value} {s t : State} {f : Value → State}
    {f' : Value → State} {es : List HostEvent} {w : Word} (hf : ∀ a, f' a = ((f a).setPending es).setCmd w)
    (h : finish x s f = t) : finish x ((s.setPending es).setCmd w) f' = (t.setPending es).setCmd w := by
  subst h
  cases x with
  | ok a => exact congrArg succeed (hf a)
  | error e => rfl

/-- No command reads or writes CMD or the host port (30_encoding.md R72). -/
theorem exec_setPending_setCmd {i : Instr} {s t : State} (es : List HostEvent) (w : Word) (h : exec i s = .next t) :
    exec i ((s.setPending es).setCmd w) = .next ((t.setPending es).setCmd w) := by
  cases i with
  | nop | stretch | pack | unpack | gen =>
    cases h
    rfl
  | enc n =>
    by_cases hn : BitCountOk n
    · rw [exec, execEnc_of_ok _ hn] at h ⊢
      cases h
      rfl
    · rw [exec, execEnc_of_not_ok _ hn] at h ⊢
      cases h
      rfl
  | dec n =>
    by_cases hn : BitCountOk n
    · rw [exec, execDec_of_ok _ hn] at h ⊢
      exact congrArg _ (finish_setPending_setCmd (fun _ => rfl) (Host.Outcome.next.inj h))
    · rw [exec, execDec_of_not_ok _ hn] at h ⊢
      cases h
      rfl
  | parse =>
    rw [exec, execParse] at h ⊢
    exact congrArg _ (finish_setPending_setCmd (fun _ => rfl) (Host.Outcome.next.inj h))

/-- Settles O51: the command runs as it would without the port, and no read shows CMD or the port. -/
theorem nextReadSeesCommandResults : Obligations.NextReadSeesCommandResults := by
  intro s w i off rest hlt h4 hdecode hpending
  obtain ⟨t, hexec, -, -, hbase, -, hreplies⟩ := everyCommandCompletesWithLegalStatus i s
  have hcommand : step s = .next (((t.setPending (.read (s.base + off) :: rest)).setCmd w).setCmd 0#32) := by
    rw [step_of_write_legal hpending hdecode, exec_setPending_setCmd _ w hexec, completeCommand_next]
  have hread := step_of_read (s := ((t.setPending (.read (s.base + off) :: rest)).setCmd w).setCmd 0#32) (rest := rest)
    hlt h4 (by
      simp only [State.setCmd_pending, State.setPending_pending, State.setCmd_base, State.setPending_base, hbase])
  exact ⟨t, _, hexec, (core_run_of_next 1 hcommand).trans (core_run_of_next 0 hread), by simp [hreplies]⟩

/-! ### The invariant -/

theorem inv_reset : Inv State.reset :=
  ⟨rfl, by decide, ⟨0#23, stretch_zero.symm⟩, .inl rfl⟩

/-- Settles O57. -/
theorem resetMeetsInvariant : Obligations.ResetMeetsInvariant :=
  inv_reset

/-- The invariant speaks of four registers only. -/
theorem Inv.of_eq {s t : State} (h : Inv s) (hcmd : t.cmd = s.cmd) (hstatus : t.status = s.status) (hm : t.m = s.m)
    (hfrag : t.frag = s.frag) : Inv t := by
  rw [Inv, hcmd, hstatus, hm, hfrag]
  exact h

/-- Only STRETCH writes M, and it writes a mask (30_encoding.md R72). -/
theorem maskLegal_of_exec {i : Instr} {s t : State} (h : exec i s = .next t) (hm : MaskLegal s.m) : MaskLegal t.m := by
  have hwrites := commandsWriteOnlyTheirDestinations i s t h
  cases i with
  | stretch =>
    rw [exec, execStretch_eq] at h
    cases h
    exact ⟨s.r, by rw [succeed_m, State.setM_m]⟩
  | _ =>
    have hframe : t = _ := hwrites
    rw [hframe]
    exact hm

/-- Only PARSE writes FRAG, and it writes a fragment (30_encoding.md R72). -/
theorem fragLegal_of_exec {i : Instr} {s t : State} (h : exec i s = .next t) (hf : FragLegal s.frag) :
    FragLegal t.frag := by
  have hwrites := commandsWriteOnlyTheirDestinations i s t h
  cases i with
  | parse =>
    obtain ⟨x, -, hrun⟩ | ⟨e, -, hrun⟩ := execParse_cases s
    · cases hrun.symm.trans h
      exact .inr ⟨(unpack x).r, by rw [succeed_frag, State.setFrag_frag]⟩
    · cases hrun.symm.trans h
      exact hf
  | _ =>
    have hframe : t = _ := hwrites
    rw [hframe]
    exact hf

/-- A command leaves legal values, and CMD is cleared when it ends (10_state.md R27, R30, R31). -/
theorem inv_of_exec {i : Instr} {s t : State} (h : exec i s = .next t) (hm : MaskLegal s.m) (hf : FragLegal s.frag) :
    Inv (t.setCmd 0#32) := by
  obtain ⟨u, hrun, hstatus, -⟩ := everyCommandCompletesWithLegalStatus i s
  cases hrun.symm.trans h
  have hmask := maskLegal_of_exec h hm
  have hfragment := fragLegal_of_exec h hf
  exact ⟨rfl, hstatus, hmask, hfragment⟩

theorem StepEffect.inv {s t : State} {e : HostEvent} {rest : List HostEvent} (h : StepEffect s rest e t) (hs : Inv s) :
    Inv t := by
  have ⟨_, _, hm, hfrag⟩ := hs
  cases h with
  | read => exact hs.of_eq rfl rfl rfl rfl
  | command hdecode hexec => exact inv_of_exec hexec hm hfrag
  | illegal => exact ⟨rfl, statusLegal_statusOfError (e := .illegalCommand) nofun, hm, hfrag⟩
  | @write off w hoff h4 h0 =>
    obtain ⟨hcmd, hstatus, hmask, hfragment, -⟩ := writeWord_keeps s w h0
    exact hs.of_eq hcmd hstatus hmask hfragment
  | reset => exact inv_reset.of_eq rfl rfl rfl rfl

/-- Settles O56: with an event pending the step is one of the five, and each keeps the invariant. -/
theorem stepKeepsInvariant : Obligations.StepKeepsInvariant := by
  intro s t hs hstep
  cases hpending : s.pending with
  | nil =>
    cases (blockIsQuiescentWithoutEvents s hpending).symm.trans hstep
    exact hs
  | cons e rest => exact (stepEffect_of_step_eq_next hpending hstep).inv hs

/-! ### Commands right after reset -/

theorem encodeDigit_zero (n j : Nat) : encodeDigit 0 n j = 0 := by
  simp [encodeDigit]

/-- The string of 0 is `A` characters (70_reset_and_hazards.md R223). -/
theorem strBuffer_encodeBits_zero (n : Nat) {j : Fin 16} (hj : j.val < charCount n) :
    (strBuffer (encodeBits 0#66 n))[j] = 0x41#8 := by
  rw [strBuffer_encodeBits_getElem, if_pos hj, BitVec.toNat_zero, encodeDigit_zero]
  rfl

theorem unpack_zero : unpack 0#66 = ⟨0#42, 0#1, 0#23⟩ := by
  simp [unpack, obfuscate]

theorem pack_zero : pack ⟨0#42, 0#1, 0#23⟩ = 0#66 := by
  rw [← unpack_zero, pack_unpack]

/-- Settles O55: SLEN 0 is no string's length, and V, R and the fields are 0. -/
theorem commandsRightAfterReset : Obligations.CommandsRightAfterReset := by
  intro s
  obtain ⟨hdec, hparse⟩ := wrongLengthIsReportedBeforeCharacters
  obtain ⟨-, hstretch⟩ := maskOfZeroIsZeroForEveryMixer
  have hfields : (platformReset s).fields = ⟨0#42, 0#1, 0#23⟩ := rfl
  refine ⟨fun n h1 h2 => ⟨hdec n _ h1 h2 ?_, _, execEnc_of_ok _ ⟨h1, h2⟩, fun j hj => ?_⟩, hparse _ (by simp),
    (hstretch _ rfl).trans rfl, ?_, _, execGen_eq _, ?_, fun j hj => ?_⟩
  · rw [platformReset_slen, BitVec.toNat_zero]
    omega
  · rw [succeed_str, State.putString_str, platformReset_v, strBuffer_encodeBits_zero _ hj]
  · rw [exec, execUnpack_eq, platformReset_v, unpack_zero]
    rfl
  · rw [succeed_v, State.putString_v, State.setV_v, hfields, pack_zero]
  · rw [succeed_str, State.putString_str, hfields, pack_zero, strBuffer_encodeBits_zero 66 hj]

end Sys2Proof.Machine
end
